-- ==== Sys2Proof/Word.lean ====
section
/-! DEFINITION. The bit widths of `spec/00_scope.md` rule R4, one name each, and nothing else.
Bit 0 is the least significant bit of every value (rule R5). -/

namespace Sys2Proof

/-- One byte on the command port's data pins: `DATA_W` = 8 (R4, R43). -/
abbrev Byte := BitVec 8

/-- A register address: `ADDR_W` = 16, all bits compared (R4, R41; decision D3). -/
abbrev Addr := BitVec 16

/-- The one-hot command `cmd[2:0]` of the command port (R60). -/
abbrev Cmd := BitVec 3

/-- The control-mode nibble: `MODE_W` = 4 (R4, R11). -/
abbrev Mode := BitVec 4

/-- A raw frequency divisor: `FREQ_W` = 5 (R4, R12). -/
abbrev Freq := BitVec 5

/-- An amplitude: the scaled volume and the output level, seven bits (R13, R14). -/
abbrev Level := BitVec 7

/-- A clock divider value: `DIV_W` = 8 (R4, R15, R16). -/
abbrev Divider := BitVec 8

/-- The native-to-output ratio in 8.8 fixed point: `STEP_W` = 16 (R4, R21). -/
abbrev StepWord := BitVec 16

/-- One output sample: `SAMPLE_W` = 8, unsigned, silence is 0 (R4, R73). -/
abbrev Sample := BitVec 8

end Sys2Proof
end

