-- ==== Sys2Proof/Config.lean ====
section
/-! DEFINITION. What is fixed for one machine and is not state: the parameters of
`spec/00_scope.md` rule R4 that the spec leaves OPEN (each an `opaque` constant, so that no proof
can see its value and every theorem holds for all contents), and the two rates the model's reset
state is created with. The parameters R4 fixes or decides stand where they are used, so that a
repair can reach them: the six addresses in `Decode.lean`, the mode bits, `DIV3_MASK` and
`VOL_SHIFT` in `Machine/Operands.lean`, `POLY4_BITS` and `TICK_WEIGHT` in `Machine/Ops.lean`. -/

namespace Sys2Proof

/-- `POLY5_BITS[0..30]`, OPEN (R4, R22; decision D15): 31 entries, each 0 or 1, in no source.
Assume nothing about them, not even that they differ from `DIV31_GATE`. Log entry 1. -/
opaque Config.poly5Bits : Vector Bool 31

/-- `POLY9_BITS[0..510]`, OPEN (R4, R22; decision D15): 511 entries, each 0 or 1. Log entry 1. -/
opaque Config.poly9Bits : Vector Bool 511

/-- `DIV31_GATE[0..30]`, OPEN (R4, R22; decision D15): 31 entries, each 0 or 1. Log entry 1. -/
opaque Config.div31Gate : Vector Bool 31

/-- `ERR_INVALID_CONFIGURATION`, the numeric code of the one error, OPEN (R170; decision D11):
the error is identified by name and no claim depends on the number. Log entry 2. -/
opaque Config.errInvalidConfiguration : Nat

/-- DESIGN CHOICE (log entry 3): the `nativeClockHz` of the `NEW` whose result `State.reset` is. -/
def Config.resetNativeClockHz : Int := 31400

/-- DESIGN CHOICE (log entry 3): the `outputSampleRateHz` of that `NEW`. -/
def Config.resetOutputSampleRateHz : Int := 31400

/-- DESIGN CHOICE (log entry 3): the `accumulatorStep` those two rates give by R162,
`(31400 << 8) / 31400`. -/
def Config.resetStep : StepWord := 256

end Sys2Proof
end

