-- ==== Sys2Proof/Syntax.lean ====
section
/-! DEFINITION. The instructions (one constructor per row of `spec/opcode_table.json`), what the
block decodes them from (the command port and the mode registers), and the assembler lines of
rule R71. -/

namespace Sys2Proof

/-- The two channels, numbered 0 and 1 (R1, R179). -/
inductive ChannelId where
  | ch0
  | ch1
  deriving DecidableEq, Repr

/-- The three kinds of programmable register of a channel (R41, R62). -/
inductive RegKind where
  | control
  | frequency
  | volume
  deriving DecidableEq, Repr

/-- The instructions of this hardware (R1): its host transactions (R60, R72) and the sixteen
control-mode encodings (R68), which a channel decodes from its `controlMode` on a native tick. -/
inductive Instr where
  /-- `IDLE`: no transaction (R8). -/
  | idle
  /-- `NEW nativeClockHz, outputSampleRateHz` (R160); the operands have no width and may be zero
  or negative (R74). -/
  | new (nativeClockHz outputSampleRateHz : Int)
  /-- `GETSAMPLE` (R142). -/
  | getSample
  /-- `FILLBUFFER` over a buffer of `n` slots (R144, R72). -/
  | fillBuffer (n : Nat)
  /-- `WR_AUDC0` (R81). -/
  | wrAudc0 (data : Byte)
  /-- `WR_AUDC1` (R82). -/
  | wrAudc1 (data : Byte)
  /-- `WR_AUDF0` (R83). -/
  | wrAudf0 (data : Byte)
  /-- `WR_AUDF1` (R84). -/
  | wrAudf1 (data : Byte)
  /-- `WR_AUDV0` (R85). -/
  | wrAudv0 (data : Byte)
  /-- `WR_AUDV1` (R86). -/
  | wrAudv1 (data : Byte)
  /-- `WR_IGNORED`: a `WR` whose address is none of the six (R87). -/
  | wrIgnored (addr : Addr) (data : Byte)
  /-- `MODE_0`, SET_TO_1 (R110): one native tick of channel `c` in this mode, as in every
  constructor below. -/
  | mode0 (c : ChannelId)
  /-- `MODE_1`, POLY4 (R111). -/
  | mode1 (c : ChannelId)
  /-- `MODE_2`, DIV31_POLY4 (R112). -/
  | mode2 (c : ChannelId)
  /-- `MODE_3`, POLY5_POLY4 (R113). -/
  | mode3 (c : ChannelId)
  /-- `MODE_4`, PURE (R114). -/
  | mode4 (c : ChannelId)
  /-- `MODE_5`, PURE2 (R115). -/
  | mode5 (c : ChannelId)
  /-- `MODE_6`, DIV31_PURE (R116). -/
  | mode6 (c : ChannelId)
  /-- `MODE_7`, POLY5_2 (R117). -/
  | mode7 (c : ChannelId)
  /-- `MODE_8`, POLY9 (R118). -/
  | mode8 (c : ChannelId)
  /-- `MODE_9`, POLY5 (R119). -/
  | mode9 (c : ChannelId)
  /-- `MODE_10`, DIV31_POLY5 (R120). -/
  | mode10 (c : ChannelId)
  /-- `MODE_11`, POLY5_POLY5 (R121). -/
  | mode11 (c : ChannelId)
  /-- `MODE_12`, DIV3_PURE (R122). -/
  | mode12 (c : ChannelId)
  /-- `MODE_13`, DIV3_PURE2 (R123). -/
  | mode13 (c : ChannelId)
  /-- `MODE_14`, DIV93_PURE (R124). -/
  | mode14 (c : ChannelId)
  /-- `MODE_15`, DIV3_POLY5 (R125). -/
  | mode15 (c : ChannelId)
  deriving DecidableEq, Repr

/-- What the host presents at the command port for one transaction: the command with its operands
(R60, R61, R74). Operands a command does not use are present and not read. -/
structure Frame where
  cmd : Cmd
  addr : Addr := 0
  data : Byte := 0
  nativeClockHz : Int := 0
  outputSampleRateHz : Int := 0
  deriving DecidableEq, Repr

/-- The two things the block decodes (`spec/30_encoding.md`, opening): the host transaction at the
command port, and the control-mode nibble held by channel `c`. -/
inductive Source where
  | port (f : Frame)
  | modeRegister (c : ChannelId) (m : Mode)
  deriving DecidableEq, Repr

/-- Why a decode gives no instruction. -/
inductive DecodeError where
  /-- `cmd` has more than one bit set: not a transaction of this block (R60, R69 (f), U6). -/
  | notATransaction (cmd : Cmd)
  deriving DecidableEq, Repr

/-- What a `WR` line of the assembler names: a register by its channel and kind, or a number
(R71). -/
inductive AsmTarget where
  | reg (c : ChannelId) (k : RegKind)
  | addr (a : Addr)
  deriving DecidableEq, Repr

/-- One line of the assembler of R71. -/
inductive AsmLine where
  | new (nativeClockHz outputSampleRateHz : Int)
  | wr (target : AsmTarget) (data : Byte)
  | sample
  | fill (n : Nat)
  deriving DecidableEq, Repr

end Sys2Proof
end

