-- ==== Sys2Proof/Machine/State.lean ====
section
/-! DEFINITION. Everything the spec gives the machine (`spec/10_state.md`), as plain data, with the
state after reset, and the reasons a step can stop. -/

namespace Sys2Proof.Machine

/-- `ChannelState`: the nine fields of one channel (R10). An index register holds a position of
its table, so its type is the table's range (R17, R18, R19). -/
structure ChannelState where
  /-- AUDCx (R11). -/
  controlMode : Mode
  /-- AUDFx (R12). -/
  frequencyDivisor : Freq
  /-- AUDVx, stored already scaled by 8 (R13). -/
  volume : Level
  /-- The current amplitude (R14). -/
  outputLevel : Level
  /-- The clock divider; 0 means not clocked (R15). -/
  dividerCounter : Divider
  /-- The reload value of the divider (R16). -/
  dividerMax : Divider
  /-- Position in `POLY4_BITS` (R17). -/
  poly4Index : Fin 15
  /-- The gated-sequence counter: position in `POLY5_BITS` and `DIV31_GATE` (R18). -/
  poly5Index : Fin 31
  /-- Position in `POLY9_BITS` (R19). -/
  poly9Index : Fin 511
  deriving DecidableEq, Repr

/-- `ChipState`: the whole state of the block (R10). -/
structure ChipState where
  ch0 : ChannelState
  ch1 : ChannelState
  /-- The resampling accumulator: signed, never wraps (R20; decision D8). -/
  accumulator : Int
  /-- Native ticks per output sample in 8.8 fixed point; written by `NEW` only (R21). -/
  accumulatorStep : StepWord
  deriving DecidableEq, Repr

/-- What the last transaction handed back to the host (the "result out" column of R60). Not state
of the block (R10): the model's field for the port the host reads (log entry 7). -/
inductive Result where
  /-- No result: no transaction yet, or a `WR` (R73). -/
  | nothing
  /-- A `NEW` that succeeded (R73). -/
  | constructed
  /-- The sample of a `GETSAMPLE` (R73). -/
  | sample (v : Sample)
  /-- The buffer of a `FILLBUFFER`, slot 0 first (R144; decision D13). -/
  | buffer (vs : List Sample)
  /-- The error `InvalidConfiguration` of a `NEW` that failed (R170, R175). -/
  | invalidConfiguration
  deriving DecidableEq, Repr

/-- The machine: the block, and the two sides of its host port. -/
structure State where
  /-- The block's own state (R10). -/
  chip : ChipState
  /-- The transactions the host has still to issue, the next one first (R49). Not state of the
  block, which buffers nothing (R29): the model's field for the outside world (log entry 7). -/
  pending : List Frame
  /-- The result of the last transaction. -/
  result : Result
  deriving DecidableEq, Repr

/-- Every field of a channel right after reset is zero (R28). -/
def ChannelState.zero : ChannelState where
  controlMode := 0
  frequencyDivisor := 0
  volume := 0
  outputLevel := 0
  dividerCounter := 0
  dividerMax := 0
  poly4Index := 0
  poly5Index := 0
  poly9Index := 0

/-- The `ChipState` a successful `NEW` creates, given the step it computed (R28, R163). -/
def ChipState.created (step : StepWord) : ChipState where
  ch0 := ChannelState.zero
  ch1 := ChannelState.zero
  accumulator := 0
  accumulatorStep := step

/-- The machine right after reset. Reset is a successful `NEW` (R190); which rates it named, and so
`accumulatorStep`, is a DESIGN CHOICE (log entry 3). The host has nothing to issue yet, and no
transaction has had a result (log entry 7). -/
def State.reset : State where
  chip := ChipState.created Config.resetStep
  pending := []
  result := .nothing

/-- Reasons the machine stops with a fault. The spec gives the block no trap and no fault: its one
error, `InvalidConfiguration`, is a result of `NEW`, after which the host goes on (R175, R176). -/
inductive Fault where
  /-- Raised by `GETSAMPLE` and `FILLBUFFER` if the loop of R142 has not emitted a sample within
  the number of native ticks R143 gives. That never happens, in any state (R143: the loop always
  terminates within that number); the constructor exists because the loop is written over an
  explicit bound and invents no sample when the bound runs out. Safe: the machine stops. -/
  | sampleLoopBound
  deriving DecidableEq, Repr

/-- Reasons a step gives no meaning. -/
inductive Refusal where
  /-- Raised by an arm of `exec` whose instruction has no meaning yet; no arm does. Safe. -/
  | notModelled (mnemonic : String)
  /-- Raised by `step` when the port presents a `cmd` with more than one bit set: more than one
  entry point at once, which the spec gives no meaning (R60, R69 (f), R181; treatment `refuse`,
  U6). Safe: nothing is claimed of such a host. -/
  | notATransaction (cmd : Cmd)
  deriving DecidableEq, Repr

end Sys2Proof.Machine
end

