-- ==== Sys2Proof/Machine/Ops.lean ====
section
/-! DEFINITION. The named operations every meaning is built from: reaching a channel, reading the
four constant tables, advancing a position, mixing, handing a result back, and the block's one
error. -/

namespace Sys2Proof.Machine

/-! ## Channels -/

/-- `ch[c]` (R6). -/
def ChipState.ch (k : ChipState) : ChannelId → ChannelState
  | .ch0 => k.ch0
  | .ch1 => k.ch1

/-- Replace `ch[c]`, leaving the other channel and the resampler (R89, R100). -/
def ChipState.setCh (k : ChipState) : ChannelId → ChannelState → ChipState
  | .ch0, x => { k with ch0 := x }
  | .ch1, x => { k with ch1 := x }

/-- Replace `ch[c]` by a function of itself. -/
def ChipState.mapCh (k : ChipState) (c : ChannelId) (f : ChannelState → ChannelState) : ChipState :=
  k.setCh c (f (k.ch c))

/-- Act on `ch[c]` and hand nothing back: what a register write does (R73). -/
def State.writeCh (s : State) (c : ChannelId) (f : ChannelState → ChannelState) : State :=
  { s with chip := s.chip.mapCh c f, result := .nothing }

/-- Act on `ch[c]` inside a native tick, which is not a transaction and has no result. -/
def State.tickCh (s : State) (c : ChannelId) (f : ChannelState → ChannelState) : State :=
  { s with chip := s.chip.mapCh c f }

/-! ## Positions and tables (R22, R24, R48) -/

/-- Advance a position by one, wrapping from `L - 1` to 0 (R24, R7 (f)). -/
def nextIndex {L : Nat} (i : Fin L) : Fin L :=
  ⟨(i.val + 1) % L, Nat.mod_lt _ (Nat.lt_of_le_of_lt (Nat.zero_le _) i.isLt)⟩

/-- `POLY4_BITS`, fixed to the document's one literal, index 0 first (R4, R22; U8, log entry 8). -/
def poly4Table : Vector Bool 15 :=
  #v[true, true, false, true, true, true, false, false, false, false, true, false, true, false,
    false]

/-- `MemRead(POLY4_BITS, i, 1)` (R6, R48, R54). -/
def poly4Bit (i : Fin 15) : Bool := poly4Table[i]

/-- `MemRead(POLY5_BITS, i, 1)`; the table is OPEN (log entry 1). -/
def poly5Bit (i : Fin 31) : Bool := Config.poly5Bits[i]

/-- `MemRead(POLY9_BITS, i, 1)`; the table is OPEN (log entry 1). -/
def poly9Bit (i : Fin 511) : Bool := Config.poly9Bits[i]

/-- `MemRead(DIV31_GATE, i, 1)`; the table is OPEN (log entry 1). -/
def div31Bit (i : Fin 31) : Bool := Config.div31Gate[i]

/-! ## Levels and the mixer -/

/-- The level a sequence bit selects: on is the volume, off is 0 (R106, R107, R108). -/
def levelOf (bit : Bool) (volume : Level) : Level := if bit then volume else 0

/-- `MIX` (R140): the plain sum of the two levels, as eight unsigned bits. -/
def mix (k : ChipState) : Sample :=
  k.ch0.outputLevel.setWidth 8 + k.ch1.outputLevel.setWidth 8

/-- `TICK_WEIGHT`: what one native tick weighs in the accumulator (R4, R20). -/
def tickWeight : Int := 256

/-! ## Results and the one error -/

/-- Hand a result back to the host. -/
def State.withResult (s : State) (r : Result) : State := { s with result := r }

/-- `raise InvalidConfiguration` (R6, R170, R175): there is no trap entry. Nothing is saved, no
mode changes, no vector is consulted; the error is the result of the transaction, and an existing
state is not changed. There is no return from it (R176): the host issues its next transaction. -/
def State.raiseInvalidConfiguration (s : State) : State := s.withResult .invalidConfiguration

/-- The numeric code of a result that is an error, OPEN (R170; decision D11, log entry 2). -/
def Result.errorCode : Result → Option Nat
  | .invalidConfiguration => some Config.errInvalidConfiguration
  | .nothing => none
  | .constructed => none
  | .sample _ => none
  | .buffer _ => none

end Sys2Proof.Machine
end

