-- ==== Sys2Proof/Machine/Operands.lean ====
section
/-! DEFINITION. Operand assembly: the fields a write's data byte holds (R63, R64, R65), the four
bits of the mode nibble (R66), the effective divisor (R67), and the step a pair of rates gives
(R161, R162). -/

namespace Sys2Proof.Machine

/-! ## Data fields -/

/-- AUDCx: `data & 0x0F`; bits 7..4 are ignored (R63). -/
def controlField (data : Byte) : Mode := (data &&& 0x0F).setWidth 4

/-- AUDFx: `data & 0x1F`; bits 7..5 are ignored (R64). -/
def frequencyField (data : Byte) : Freq := (data &&& 0x1F).setWidth 5

/-- `VOL_SHIFT` (R4). -/
def volShift : Nat := 3

/-- AUDVx: `(data & 0x0F) << 3`; bits 7..4 are ignored (R65). -/
def volumeField (data : Byte) : Level := ((data &&& 0x0F) <<< volShift).setWidth 7

/-! ## The mode nibble (R66; positions by decision D4, log entry 9) -/

/-- `INV`, bit 0. -/
def invBit (m : Mode) : Bool := m.getLsbD 0

/-- `GATE`, bit 1. -/
def gateBit (m : Mode) : Bool := m.getLsbD 1

/-- `PURE`, bit 2. -/
def pureBit (m : Mode) : Bool := m.getLsbD 2

/-- `SEL`, bit 3. -/
def selBit (m : Mode) : Bool := m.getLsbD 3

/-- `MODE_POLY9`, the dedicated 9-bit-poly encoding (R66; D4). -/
def modePoly9 : Mode := 0b1000

/-- `DIV3_MASK`, the div-by-3 bits (R4, R66). -/
def div3Mask : Mode := 0b1100

/-! ## The effective divisor -/

/-- `effDiv(m, f)` (R67): 0 in mode 0, `3 * (f + 1)` in the div-by-3 modes 12 to 15, else `f + 1`.
At most 96, so eight bits lose nothing (R7 (c), (d)). -/
def effDiv (m : Mode) (f : Freq) : Divider :=
  if m = 0 then 0
  else if m &&& div3Mask = div3Mask then (f.setWidth 8 + 1) * 3
  else f.setWidth 8 + 1

/-! ## The operands of `NEW` -/

/-- `FP_SHIFT`, the fractional bits of the step (R4). -/
def fpShift : Nat := 8

/-- `(native << 8) / output` (R162): exact product, floor quotient. Evaluated only with a positive
divisor (R174), where the integer division of Lean is the floor. -/
def rawStep (nativeClockHz outputSampleRateHz : Int) : Int :=
  nativeClockHz * 2 ^ fpShift / outputSampleRateHz

/-- The validity check of R161 in the order of R160: positivity first, then the step. `none` is an
invalid pair, `some` the step of a valid one. -/
def validStep (nativeClockHz outputSampleRateHz : Int) : Option StepWord :=
  if nativeClockHz ≤ 0 ∨ outputSampleRateHz ≤ 0 then none
  else if rawStep nativeClockHz outputSampleRateHz < 1
      ∨ rawStep nativeClockHz outputSampleRateHz > 65535 then none
  else some (BitVec.ofInt 16 (rawStep nativeClockHz outputSampleRateHz))

end Sys2Proof.Machine
end

