-- ==== Sys2Proof/Machine/Construction.lean ====
section
/-! DEFINITION. The CMD rows that touch no generator: `NEW` (`spec/43_construction.md`), the only
form of reset (R190), and `IDLE` (R8). -/

namespace Sys2Proof.Machine

/-- `NEW nativeClockHz, outputSampleRateHz` (R160): a valid pair creates the all-zero state with
the computed step, whatever the state was (R163); an invalid pair raises `InvalidConfiguration`
and changes no existing state (R175; decision D18). -/
def execNew (nativeClockHz outputSampleRateHz : Int) (s : State) :
    Host.Outcome State Fault Refusal :=
  match validStep nativeClockHz outputSampleRateHz with
  | some step => .next { s with chip := ChipState.created step, result := .constructed }
  | none => .next s.raiseInvalidConfiguration

/-- `IDLE`: no transaction; the state does not change (R8, R60). -/
def execIdle (s : State) : Host.Outcome State Fault Refusal := .next s

end Sys2Proof.Machine
end

