-- ==== Sys2Proof/Decode.lean ====
section
/-! DEFINITION. The decoder, total on whatever the command port and the mode registers can hold,
then the encoder, written from the same rules (R60 to R62, R68), then the assembler of R71 and
R72 and the reading of a word as `spec/opcode_table.json` numbers it. -/

namespace Sys2Proof

/-! ## Register addresses (R41; defaults by decision D2, log entry 4) -/

/-- `ADDR_AUDC0`. PRESUMED by the spec (D2); a parameter, distinct from the other five. -/
def addrAudc0 : Addr := 0x15
/-- `ADDR_AUDC1` (D2). -/
def addrAudc1 : Addr := 0x16
/-- `ADDR_AUDF0` (D2). -/
def addrAudf0 : Addr := 0x17
/-- `ADDR_AUDF1` (D2). -/
def addrAudf1 : Addr := 0x18
/-- `ADDR_AUDV0` (D2). -/
def addrAudv0 : Addr := 0x19
/-- `ADDR_AUDV1` (D2). -/
def addrAudv1 : Addr := 0x1A

/-- The address a register name stands for (R41, R71). -/
def regAddr : ChannelId → RegKind → Addr
  | .ch0, .control => addrAudc0
  | .ch1, .control => addrAudc1
  | .ch0, .frequency => addrAudf0
  | .ch1, .frequency => addrAudf1
  | .ch0, .volume => addrAudv0
  | .ch1, .volume => addrAudv1

/-- `decode(addr)` of R62: all sixteen bits compared, no mirror, no partial decode (R41). -/
def decodeAddr (a : Addr) : Option (ChannelId × RegKind) :=
  if a = addrAudc0 then some (.ch0, .control)
  else if a = addrAudc1 then some (.ch1, .control)
  else if a = addrAudf0 then some (.ch0, .frequency)
  else if a = addrAudf1 then some (.ch1, .frequency)
  else if a = addrAudv0 then some (.ch0, .volume)
  else if a = addrAudv1 then some (.ch1, .volume)
  else none

/-! ## Decoding -/

/-- The seven operations of `WR` (R61). -/
def decodeWr (a : Addr) (d : Byte) : Instr :=
  match decodeAddr a with
  | some (.ch0, .control) => .wrAudc0 d
  | some (.ch1, .control) => .wrAudc1 d
  | some (.ch0, .frequency) => .wrAudf0 d
  | some (.ch1, .frequency) => .wrAudf1 d
  | some (.ch0, .volume) => .wrAudv0 d
  | some (.ch1, .volume) => .wrAudv1 d
  | none => .wrIgnored a d

/-- `cmd` = `000`. -/
def cmdIdle : Cmd := 0b000#3
/-- `cmd` = `001`. -/
def cmdWr : Cmd := 0b001#3
/-- `cmd` = `010`. -/
def cmdGetSample : Cmd := 0b010#3
/-- `cmd` = `100`. -/
def cmdNew : Cmd := 0b100#3

/-- The command table of R60; any other value is rejected by name (R69 (f)). -/
def decodeFrame (f : Frame) : Except DecodeError Instr :=
  if f.cmd = cmdIdle then .ok .idle
  else if f.cmd = cmdWr then .ok (decodeWr f.addr f.data)
  else if f.cmd = cmdGetSample then .ok .getSample
  else if f.cmd = cmdNew then .ok (.new f.nativeClockHz f.outputSampleRateHz)
  else .error (.notATransaction f.cmd)

/-- The mode map of R68, row by row: bits 3, 2, 1, 0 of the nibble. Every nibble is defined
(R69 (b)). -/
def decodeMode (c : ChannelId) (m : Mode) : Instr :=
  match m.getLsbD 3, m.getLsbD 2, m.getLsbD 1, m.getLsbD 0 with
  | false, false, false, false => .mode0 c
  | false, false, false, true => .mode1 c
  | false, false, true, false => .mode2 c
  | false, false, true, true => .mode3 c
  | false, true, false, false => .mode4 c
  | false, true, false, true => .mode5 c
  | false, true, true, false => .mode6 c
  | false, true, true, true => .mode7 c
  | true, false, false, false => .mode8 c
  | true, false, false, true => .mode9 c
  | true, false, true, false => .mode10 c
  | true, false, true, true => .mode11 c
  | true, true, false, false => .mode12 c
  | true, true, false, true => .mode13 c
  | true, true, true, false => .mode14 c
  | true, true, true, true => .mode15 c

/-- The block's two decodings as one function. -/
def decode : Source → Except DecodeError Instr
  | .port f => decodeFrame f
  | .modeRegister c m => .ok (decodeMode c m)

/-! ## Encoding -/

/-- The frame of a `GETSAMPLE` (R60). -/
def getSampleFrame : Frame := { cmd := cmdGetSample }

/-- The frame of a `WR` (R61). -/
def wrFrame (a : Addr) (d : Byte) : Frame := { cmd := cmdWr, addr := a, data := d }

/-- The frame of a `NEW` (R60, R74). -/
def newFrame (nativeClockHz outputSampleRateHz : Int) : Frame :=
  { cmd := cmdNew, nativeClockHz := nativeClockHz, outputSampleRateHz := outputSampleRateHz }

/-- The encoding of an instruction: one frame for a transaction, `n` `GETSAMPLE` frames for
`FILLBUFFER` (R72, R144: it has no encoding of its own), the nibble in the channel's mode register
for a mode. -/
def encode : Instr → List Source
  | .idle => [.port { cmd := cmdIdle }]
  | .new n o => [.port (newFrame n o)]
  | .getSample => [.port getSampleFrame]
  | .fillBuffer n => List.replicate n (.port getSampleFrame)
  | .wrAudc0 d => [.port (wrFrame addrAudc0 d)]
  | .wrAudc1 d => [.port (wrFrame addrAudc1 d)]
  | .wrAudf0 d => [.port (wrFrame addrAudf0 d)]
  | .wrAudf1 d => [.port (wrFrame addrAudf1 d)]
  | .wrAudv0 d => [.port (wrFrame addrAudv0 d)]
  | .wrAudv1 d => [.port (wrFrame addrAudv1 d)]
  | .wrIgnored a d => [.port (wrFrame a d)]
  | .mode0 c => [.modeRegister c 0x0]
  | .mode1 c => [.modeRegister c 0x1]
  | .mode2 c => [.modeRegister c 0x2]
  | .mode3 c => [.modeRegister c 0x3]
  | .mode4 c => [.modeRegister c 0x4]
  | .mode5 c => [.modeRegister c 0x5]
  | .mode6 c => [.modeRegister c 0x6]
  | .mode7 c => [.modeRegister c 0x7]
  | .mode8 c => [.modeRegister c 0x8]
  | .mode9 c => [.modeRegister c 0x9]
  | .mode10 c => [.modeRegister c 0xA]
  | .mode11 c => [.modeRegister c 0xB]
  | .mode12 c => [.modeRegister c 0xC]
  | .mode13 c => [.modeRegister c 0xD]
  | .mode14 c => [.modeRegister c 0xE]
  | .mode15 c => [.modeRegister c 0xF]

/-! ## The word of an opcode-table row

The table has three formats over three different sets of wires: CMD rows number `cmd[2:0]`, MODE
rows the nibble, WR rows `addr[15:0]` (with `cmd` = `001` implied), the data following it
(log entry 5). -/

/-- The bits `w` of a row of `nbits` bits, as what the block decodes: up to three bits are a
command, up to eight a mode nibble (of channel 0), more a `WR` with the address in bits 15..0 and
the data in bits 23..16. `none` where `w` has a bit outside its format. -/
def tableSource (nbits w : Nat) : Option Source :=
  if nbits ≤ 3 then if w < 2 ^ 3 then some (.port { cmd := BitVec.ofNat 3 w }) else none
  else if nbits ≤ 8 then
    if w < 2 ^ 4 then some (.modeRegister .ch0 (BitVec.ofNat 4 w)) else none
  else if w < 2 ^ 24 then
    some (.port (wrFrame (BitVec.ofNat 16 w) (BitVec.ofNat 8 (w / 2 ^ 16))))
  else none

/-- The instruction the decoder reads from a word numbered as the opcode table numbers it. -/
def decodeTableWord (nbits w : Nat) : Option Instr :=
  match tableSource nbits w with
  | none => none
  | some src =>
    match decode src with
    | .ok i => some i
    | .error _ => none

/-! ## The assembler (R71, R72; decision D14) -/

/-- The mnemonic of an instruction, as the opcode table spells it; `WR_X` for a register name `X`,
`WR_IGNORED` for any other `WR` (R71). -/
def Instr.mnemonic : Instr → String
  | .idle => "IDLE"
  | .new _ _ => "NEW"
  | .getSample => "GETSAMPLE"
  | .fillBuffer _ => "FILLBUFFER"
  | .wrAudc0 _ => "WR_AUDC0"
  | .wrAudc1 _ => "WR_AUDC1"
  | .wrAudf0 _ => "WR_AUDF0"
  | .wrAudf1 _ => "WR_AUDF1"
  | .wrAudv0 _ => "WR_AUDV0"
  | .wrAudv1 _ => "WR_AUDV1"
  | .wrIgnored _ _ => "WR_IGNORED"
  | .mode0 _ => "MODE_0"
  | .mode1 _ => "MODE_1"
  | .mode2 _ => "MODE_2"
  | .mode3 _ => "MODE_3"
  | .mode4 _ => "MODE_4"
  | .mode5 _ => "MODE_5"
  | .mode6 _ => "MODE_6"
  | .mode7 _ => "MODE_7"
  | .mode8 _ => "MODE_8"
  | .mode9 _ => "MODE_9"
  | .mode10 _ => "MODE_10"
  | .mode11 _ => "MODE_11"
  | .mode12 _ => "MODE_12"
  | .mode13 _ => "MODE_13"
  | .mode14 _ => "MODE_14"
  | .mode15 _ => "MODE_15"

/-- A register name stands for its address parameter (R71). -/
def AsmTarget.toAddr : AsmTarget → Addr
  | .reg c k => regAddr c k
  | .addr a => a

/-- The transactions one assembler line stands for: `FILL n` expands to `n` `SAMPLE`s, `FILL 0`
to nothing (R72). -/
def AsmLine.frames : AsmLine → List Frame
  | .new n o => [newFrame n o]
  | .wr t d => [wrFrame t.toAddr d]
  | .sample => [getSampleFrame]
  | .fill n => List.replicate n getSampleFrame

/-- The value of one digit in a base up to sixteen. -/
def asmDigit (base : Nat) (c : Char) : Option Nat :=
  let v :=
    if 48 ≤ c.toNat ∧ c.toNat ≤ 57 then c.toNat - 48
    else if 97 ≤ c.toNat ∧ c.toNat ≤ 102 then c.toNat - 87
    else if 65 ≤ c.toNat ∧ c.toNat ≤ 70 then c.toNat - 55
    else 16
  if v < base then some v else none

/-- Digits read after the value `acc`, most significant first. -/
def asmDigits (base : Nat) : Nat → List Char → Option Nat
  | acc, [] => some acc
  | acc, c :: cs =>
    match asmDigit base c with
    | some d => asmDigits base (acc * base + d) cs
    | none => none

/-- "Numbers are decimal, or hexadecimal with `0x`, or binary with `0b`" (R71). -/
def asmNat : List Char → Option Nat
  | '0' :: 'x' :: c :: cs => asmDigits 16 0 (c :: cs)
  | '0' :: 'b' :: c :: cs => asmDigits 2 0 (c :: cs)
  | c :: cs => asmDigits 10 0 (c :: cs)
  | [] => none

/-- A number with an optional minus sign, for the operands of `NEW` (R74; log entry 6). -/
def asmInt : List Char → Option Int
  | '-' :: cs => (asmNat cs).map fun n => -(n : Int)
  | cs => (asmNat cs).map fun n => (n : Int)

/-- A number below `2 ^ w`, as a field of `w` bits. -/
def asmField (w : Nat) (cs : List Char) : Option (BitVec w) :=
  match asmNat cs with
  | some n => if n < 2 ^ w then some (BitVec.ofNat w n) else none
  | none => none

/-- `<reg>` is one of AUDC0 AUDC1 AUDF0 AUDF1 AUDV0 AUDV1; anything else is a number (R71). -/
def asmTarget (cs : List Char) : Option AsmTarget :=
  if cs = ['A', 'U', 'D', 'C', '0'] then some (.reg .ch0 .control)
  else if cs = ['A', 'U', 'D', 'C', '1'] then some (.reg .ch1 .control)
  else if cs = ['A', 'U', 'D', 'F', '0'] then some (.reg .ch0 .frequency)
  else if cs = ['A', 'U', 'D', 'F', '1'] then some (.reg .ch1 .frequency)
  else if cs = ['A', 'U', 'D', 'V', '0'] then some (.reg .ch0 .volume)
  else if cs = ['A', 'U', 'D', 'V', '1'] then some (.reg .ch1 .volume)
  else (asmField 16 cs).map .addr

/-- A finished word, if there is one, before the words that follow it. -/
def asmFlush (word : List Char) (rest : List (List Char)) : List (List Char) :=
  if word = [] then rest else word.reverse :: rest

/-- The words of a line: blanks separate, a comma is a word of its own, and a `;` starts a comment
(R71). The first argument is the word being read, last character first. -/
def asmWords : List Char → List Char → List (List Char)
  | word, [] => asmFlush word []
  | word, c :: cs =>
    if c = ';' then asmFlush word []
    else if c = ' ' ∨ c = '\t' then asmFlush word (asmWords [] cs)
    else if c = ',' then asmFlush word ([','] :: asmWords [] cs)
    else asmWords (c :: word) cs

/-- One line of text: `none` where it is malformed, `some []` where it is blank or a comment. -/
def parseAsmLine (line : List Char) : Option (List AsmLine) :=
  match asmWords [] line with
  | [] => some []
  | [kw] => if kw = ['S', 'A', 'M', 'P', 'L', 'E'] then some [.sample] else none
  | [kw, n] =>
    if kw = ['F', 'I', 'L', 'L'] then (asmNat n).map fun n => [.fill n] else none
  | [kw, a, [','], b] =>
    if kw = ['N', 'E', 'W'] then
      match asmInt a, asmInt b with
      | some n, some o => some [.new n o]
      | _, _ => none
    else if kw = ['W', 'R'] then
      match asmTarget a, asmField 8 b with
      | some t, some d => some [.wr t d]
      | _, _ => none
    else none
  | _ => none

/-- The transactions of a program text, line by line, in order (R49, R71). -/
def assemble : List (List Char) → Option (List Frame)
  | [] => some []
  | line :: lines =>
    match parseAsmLine line, assemble lines with
    | some ls, some fs => some (ls.flatMap AsmLine.frames ++ fs)
    | _, _ => none

end Sys2Proof
end

