-- ==== Sys2Proof/Machine/Decoder.lean ====
section
/-! DEFINITION. The register decoder (`spec/40_register_decoder.md`): `Recompute`, and the seven
operations of `WR`. A write sets no flag, raises nothing and takes no time (R69, R171, R198). -/

namespace Sys2Proof.Machine

/-- `Recompute(c)` (R80): in mode 0 the level is forced to the volume; then, if the effective
divisor differs from `dividerMax`, it is stored there, and the counter is reloaded if it was at
zero or the new divisor is zero (lazy reload, R194). -/
def recompute (x : ChannelState) : ChannelState :=
  let forced :=
    if x.controlMode = 0 then { x with outputLevel := x.volume } else x
  let new := effDiv x.controlMode x.frequencyDivisor
  if new = x.dividerMax then forced
  else
    { forced with
      dividerMax := new
      dividerCounter := if x.dividerCounter = 0 ∨ new = 0 then new else x.dividerCounter }

/-- `ch[c].controlMode <- data & 0x0F; Recompute(c)` (R88). -/
def writeControl (data : Byte) (x : ChannelState) : ChannelState :=
  recompute { x with controlMode := controlField data }

/-- `ch[c].frequencyDivisor <- data & 0x1F; Recompute(c)` (R88). -/
def writeFrequency (data : Byte) (x : ChannelState) : ChannelState :=
  recompute { x with frequencyDivisor := frequencyField data }

/-- `ch[c].volume <- (data & 0x0F) << 3; Recompute(c)` (R88; conflict C1: after a volume write
too). -/
def writeVolume (data : Byte) (x : ChannelState) : ChannelState :=
  recompute { x with volume := volumeField data }

/-- `WR addr, data` (R88), which is `MemWrite(addr, 1, data)` (R54): the dispatcher on the decoded
address; nothing where it decodes to none (R42, R87). -/
def writeRegister (addr : Addr) (data : Byte) (s : State) : State :=
  match decodeAddr addr with
  | some (c, .control) => s.writeCh c (writeControl data)
  | some (c, .frequency) => s.writeCh c (writeFrequency data)
  | some (c, .volume) => s.writeCh c (writeVolume data)
  | none => s.withResult .nothing

/-- `WR_AUDC0` (R81). -/
def execWrAudc0 (data : Byte) (s : State) : Host.Outcome State Fault Refusal :=
  .next (s.writeCh .ch0 (writeControl data))

/-- `WR_AUDC1` (R82). -/
def execWrAudc1 (data : Byte) (s : State) : Host.Outcome State Fault Refusal :=
  .next (s.writeCh .ch1 (writeControl data))

/-- `WR_AUDF0` (R83). -/
def execWrAudf0 (data : Byte) (s : State) : Host.Outcome State Fault Refusal :=
  .next (s.writeCh .ch0 (writeFrequency data))

/-- `WR_AUDF1` (R84). -/
def execWrAudf1 (data : Byte) (s : State) : Host.Outcome State Fault Refusal :=
  .next (s.writeCh .ch1 (writeFrequency data))

/-- `WR_AUDV0` (R85). -/
def execWrAudv0 (data : Byte) (s : State) : Host.Outcome State Fault Refusal :=
  .next (s.writeCh .ch0 (writeVolume data))

/-- `WR_AUDV1` (R86). -/
def execWrAudv1 (data : Byte) (s : State) : Host.Outcome State Fault Refusal :=
  .next (s.writeCh .ch1 (writeVolume data))

/-- `WR_IGNORED` (R87, R42): no field of the block changes and no `Recompute` runs; both operands
are unused. -/
def execWrIgnored (_addr : Addr) (_data : Byte) (s : State) : Host.Outcome State Fault Refusal :=
  .next (s.withResult .nothing)

end Sys2Proof.Machine
end

