-- ==== Sys2Proof/Machine/Flags.lean ====
section
/-! DEFINITION. The block has no flags and no condition codes, and none is stored (R25). Its one
condition is the gate, computed afresh at each divider underflow from the mode bits and the
advanced `poly5Index` (R103). -/

namespace Sys2Proof.Machine

/-- A gate that always passes: `GATE == 0` (R103). -/
def gateAlways (_ : Fin 31) : Bool := true

/-- The gate of the div31 table: `GATE == 1`, `INV == 0` (R103). -/
def gateDiv31 (p5 : Fin 31) : Bool := div31Bit p5

/-- The gate of the 5-bit sequence: `GATE == 1`, `INV == 1` (R103). -/
def gatePoly5 (p5 : Fin 31) : Bool := poly5Bit p5

/-- `GatePasses(c)` (R103), of the mode and the advanced `poly5Index`. -/
def gatePasses (m : Mode) (p5 : Fin 31) : Bool :=
  !gateBit m
    || (gateBit m && !invBit m && gateDiv31 p5)
    || (gateBit m && invBit m && gatePoly5 p5)

end Sys2Proof.Machine
end

