-- ==== Sys2Proof/Machine/Generator.lean ====
section
/-! DEFINITION. The waveform generator (`spec/41_waveform_generator.md`): the divider, the
underflow event, the gate and the four actions as the bit tests of R101 to R108 (what `TICK` runs),
and the sixteen modes as R110 to R125 write them out. -/

namespace Sys2Proof.Machine

/-! ## The four actions -/

/-- `Toggle(c)` (R105): a non-zero level, whichever it is, goes to 0 (decision D7). -/
def toggle (x : ChannelState) : ChannelState :=
  { x with outputLevel := if x.outputLevel ≠ 0 then 0 else x.volume }

/-- `Poly9(c)` (R106): the table is read at the advanced index. -/
def poly9 (x : ChannelState) : ChannelState :=
  let p := nextIndex x.poly9Index
  { x with poly9Index := p, outputLevel := levelOf (poly9Bit p) x.volume }

/-- `Poly5Level(c)` (R107): at the index the event has already advanced. -/
def poly5Level (x : ChannelState) : ChannelState :=
  { x with outputLevel := levelOf (poly5Bit x.poly5Index) x.volume }

/-- `Poly4(c)` (R108): the table is read at the advanced index. -/
def poly4 (x : ChannelState) : ChannelState :=
  let p := nextIndex x.poly4Index
  { x with poly4Index := p, outputLevel := levelOf (poly4Bit p) x.volume }

/-- `Action(c)` (R104): `PURE` before `SEL`, and the poly9 action for `MODE_POLY9` only. -/
def action (x : ChannelState) : ChannelState :=
  if pureBit x.controlMode then toggle x
  else if selBit x.controlMode then
    if x.controlMode = modePoly9 then poly9 x else poly5Level x
  else poly4 x

/-! ## The divider -/

/-- The unconditional part of `Underflow(c)` (R102): reload, then advance `poly5Index`. -/
def reload (x : ChannelState) : ChannelState :=
  { x with dividerCounter := x.dividerMax, poly5Index := nextIndex x.poly5Index }

/-- The divider of R101 over an underflow event: above 1 it decrements and nothing else happens,
at 1 the event runs, at 0 the channel is not clocked (decision D6). -/
def divide (event : ChannelState → ChannelState) (x : ChannelState) : ChannelState :=
  if 1 < x.dividerCounter then { x with dividerCounter := x.dividerCounter - 1 }
  else if x.dividerCounter = 1 then event x
  else x

/-- An underflow event with a given gate and action (R102, R109): both see the advanced
`poly5Index`; if the gate does not pass, the event ends after the reload and the advance. -/
def eventOf (gate : Fin 31 → Bool) (act : ChannelState → ChannelState) (x : ChannelState) :
    ChannelState :=
  let r := reload x
  if gate r.poly5Index then act r else r

/-- `Underflow(c)` (R102), with the gate and the action chosen by the bits of `controlMode`. -/
def underflow (x : ChannelState) : ChannelState := eventOf (gatePasses x.controlMode) action x

/-- `ChannelStep(c)` (R101), defined on every value of the state (R129). -/
def channelStep (x : ChannelState) : ChannelState := divide underflow x

/-- `TICK` (R100): channel 0, then channel 1 (decision D16; the order cannot be observed). -/
def tick (k : ChipState) : ChipState := (k.mapCh .ch0 channelStep).mapCh .ch1 channelStep

/-! ## The sixteen modes: one native tick of channel `c` in the mode (log entry 10) -/

/-- `MODE_0`, SET_TO_1 (R110): the divider stands at 0, so a tick does nothing. R129 says what the
rules give if it did not: a gate that passes and the poly4 action. -/
def execMode0 (c : ChannelId) (s : State) : Host.Outcome State Fault Refusal :=
  .next (s.tickCh c (divide (eventOf gateAlways poly4)))

/-- `MODE_1`, POLY4 (R111). -/
def execMode1 (c : ChannelId) (s : State) : Host.Outcome State Fault Refusal :=
  .next (s.tickCh c (divide (eventOf gateAlways poly4)))

/-- `MODE_2`, DIV31_POLY4 (R112). -/
def execMode2 (c : ChannelId) (s : State) : Host.Outcome State Fault Refusal :=
  .next (s.tickCh c (divide (eventOf gateDiv31 poly4)))

/-- `MODE_3`, POLY5_POLY4 (R113). -/
def execMode3 (c : ChannelId) (s : State) : Host.Outcome State Fault Refusal :=
  .next (s.tickCh c (divide (eventOf gatePoly5 poly4)))

/-- `MODE_4`, PURE (R114). -/
def execMode4 (c : ChannelId) (s : State) : Host.Outcome State Fault Refusal :=
  .next (s.tickCh c (divide (eventOf gateAlways toggle)))

/-- `MODE_5`, PURE2 (R115). -/
def execMode5 (c : ChannelId) (s : State) : Host.Outcome State Fault Refusal :=
  .next (s.tickCh c (divide (eventOf gateAlways toggle)))

/-- `MODE_6`, DIV31_PURE (R116). -/
def execMode6 (c : ChannelId) (s : State) : Host.Outcome State Fault Refusal :=
  .next (s.tickCh c (divide (eventOf gateDiv31 toggle)))

/-- `MODE_7`, POLY5_2 (R117). -/
def execMode7 (c : ChannelId) (s : State) : Host.Outcome State Fault Refusal :=
  .next (s.tickCh c (divide (eventOf gatePoly5 toggle)))

/-- `MODE_8`, POLY9 (R118). -/
def execMode8 (c : ChannelId) (s : State) : Host.Outcome State Fault Refusal :=
  .next (s.tickCh c (divide (eventOf gateAlways poly9)))

/-- `MODE_9`, POLY5 (R119). -/
def execMode9 (c : ChannelId) (s : State) : Host.Outcome State Fault Refusal :=
  .next (s.tickCh c (divide (eventOf gateAlways poly5Level)))

/-- `MODE_10`, DIV31_POLY5 (R120). -/
def execMode10 (c : ChannelId) (s : State) : Host.Outcome State Fault Refusal :=
  .next (s.tickCh c (divide (eventOf gateDiv31 poly5Level)))

/-- `MODE_11`, POLY5_POLY5 (R121). -/
def execMode11 (c : ChannelId) (s : State) : Host.Outcome State Fault Refusal :=
  .next (s.tickCh c (divide (eventOf gatePoly5 poly5Level)))

/-- `MODE_12`, DIV3_PURE (R122). -/
def execMode12 (c : ChannelId) (s : State) : Host.Outcome State Fault Refusal :=
  .next (s.tickCh c (divide (eventOf gateAlways toggle)))

/-- `MODE_13`, DIV3_PURE2 (R123). -/
def execMode13 (c : ChannelId) (s : State) : Host.Outcome State Fault Refusal :=
  .next (s.tickCh c (divide (eventOf gateAlways toggle)))

/-- `MODE_14`, DIV93_PURE (R124). -/
def execMode14 (c : ChannelId) (s : State) : Host.Outcome State Fault Refusal :=
  .next (s.tickCh c (divide (eventOf gateDiv31 toggle)))

/-- `MODE_15`, DIV3_POLY5 (R125). -/
def execMode15 (c : ChannelId) (s : State) : Host.Outcome State Fault Refusal :=
  .next (s.tickCh c (divide (eventOf gatePoly5 toggle)))

end Sys2Proof.Machine
end

