-- ==== Sys2Proof/Machine/Resampler.lean ====
section
/-! DEFINITION. The resampler and the mixer (`spec/42_resampler_mixer.md`): `NTICK`, the loop of
`GETSAMPLE`, and `FILLBUFFER`. -/

namespace Sys2Proof.Machine

/-- `NTICK` (R141): the generator first, then the subtraction, then the signed comparison with the
tick weight, then the addition; the sample is the mix after the tick. -/
def ntick (k : ChipState) : ChipState × Option Sample :=
  let t := tick k
  let acc := t.accumulator - tickWeight
  if acc < tickWeight then
    ({ t with accumulator := acc + t.accumulatorStep.toNat }, some (mix t))
  else ({ t with accumulator := acc }, none)

/-- `K(a)` (R143): the number of native ticks a `GETSAMPLE` performs from an accumulator `a`. A
ghost, stored nowhere (R180); here it bounds the loop. -/
def tickCount (a : Int) : Nat := max 1 (a / tickWeight).toNat

/-- The loop of R142, over a bound on its ticks: `NTICK` until it emits a sample. -/
def sampleLoop : Nat → ChipState → Option (ChipState × Sample)
  | 0, _ => none
  | n + 1, k =>
    match ntick k with
    | (k', some v) => some (k', v)
    | (k', none) => sampleLoop n k'

/-- `GETSAMPLE` on the block (R142). -/
def getSample (k : ChipState) : Option (ChipState × Sample) :=
  sampleLoop (tickCount k.accumulator) k

/-- `FILLBUFFER` on the block (R144): `n` samples, slot 0 first. -/
def fillSlots : Nat → ChipState → Option (ChipState × List Sample)
  | 0, k => some (k, [])
  | n + 1, k =>
    match getSample k with
    | none => none
    | some (k', v) =>
      match fillSlots n k' with
      | none => none
      | some (k'', vs) => some (k'', v :: vs)

/-- `GETSAMPLE` (R142). -/
def execGetSample (s : State) : Host.Outcome State Fault Refusal :=
  match getSample s.chip with
  | some (k, v) => .next { s with chip := k, result := .sample v }
  | none => .fault .sampleLoopBound

/-- `FILLBUFFER` over a buffer of `n` slots (R144); `n = 0` performs no tick (decision D20). -/
def execFillBuffer (n : Nat) (s : State) : Host.Outcome State Fault Refusal :=
  match fillSlots n s.chip with
  | some (k, vs) => .next { s with chip := k, result := .buffer vs }
  | none => .fault .sampleLoopBound

end Sys2Proof.Machine
end

