-- ==== Sys2Proof/Machine/Dispatch.lean ====
section
/-! DEFINITION. One arm per constructor of `Instr`, each a direct call of its meaning. -/

namespace Sys2Proof.Machine

def exec (i : Instr) (s : State) : Host.Outcome State Fault Refusal :=
  match i with
  | .idle => Sys2Proof.Machine.execIdle s
  | .new n o => Sys2Proof.Machine.execNew n o s
  | .getSample => Sys2Proof.Machine.execGetSample s
  | .fillBuffer n => Sys2Proof.Machine.execFillBuffer n s
  | .wrAudc0 d => Sys2Proof.Machine.execWrAudc0 d s
  | .wrAudc1 d => Sys2Proof.Machine.execWrAudc1 d s
  | .wrAudf0 d => Sys2Proof.Machine.execWrAudf0 d s
  | .wrAudf1 d => Sys2Proof.Machine.execWrAudf1 d s
  | .wrAudv0 d => Sys2Proof.Machine.execWrAudv0 d s
  | .wrAudv1 d => Sys2Proof.Machine.execWrAudv1 d s
  | .wrIgnored a d => Sys2Proof.Machine.execWrIgnored a d s
  | .mode0 c => Sys2Proof.Machine.execMode0 c s
  | .mode1 c => Sys2Proof.Machine.execMode1 c s
  | .mode2 c => Sys2Proof.Machine.execMode2 c s
  | .mode3 c => Sys2Proof.Machine.execMode3 c s
  | .mode4 c => Sys2Proof.Machine.execMode4 c s
  | .mode5 c => Sys2Proof.Machine.execMode5 c s
  | .mode6 c => Sys2Proof.Machine.execMode6 c s
  | .mode7 c => Sys2Proof.Machine.execMode7 c s
  | .mode8 c => Sys2Proof.Machine.execMode8 c s
  | .mode9 c => Sys2Proof.Machine.execMode9 c s
  | .mode10 c => Sys2Proof.Machine.execMode10 c s
  | .mode11 c => Sys2Proof.Machine.execMode11 c s
  | .mode12 c => Sys2Proof.Machine.execMode12 c s
  | .mode13 c => Sys2Proof.Machine.execMode13 c s
  | .mode14 c => Sys2Proof.Machine.execMode14 c s
  | .mode15 c => Sys2Proof.Machine.execMode15 c s

end Sys2Proof.Machine
end

