-- ==== Sys2Proof/Machine/Port.lean ====
section
/-! DEFINITION. The host's side of the command port: what the next step is to perform, and how a
word is placed so that the next step performs it. The block has no program counter and fetches
nothing from a memory (R24): the host supplies each transaction, and a channel decodes its mode
register on a native tick. -/

namespace Sys2Proof.Machine

/-- The next transaction the host issues, and the state with it issued; `none` where the host has
nothing to issue, so that the port is idle. -/
def nextFrame (s : State) : Option (Frame × State) :=
  match s.pending with
  | [] => none
  | f :: rest => some (f, { s with pending := rest })

/-- The host issues one more transaction, before those already pending. -/
def State.present (s : State) (f : Frame) : State := { s with pending := f :: s.pending }

/-- The host appends a transaction to those it has still to issue (R49). -/
def State.issue (s : State) (f : Frame) : State := { s with pending := s.pending ++ [f] }

/-- Put a mode nibble where channel `c` fetches it, so that the next native tick decodes it: the
nibble in the mode register, the divisor that goes with it (R80), and, unless the mode is 0, the
divider standing at 1, where the tick is an underflow (R101). -/
def armMode (m : Mode) (x : ChannelState) : ChannelState :=
  let y := recompute { x with controlMode := m }
  if y.dividerCounter = 0 then y else { y with dividerCounter := 1 }

/-- Place what the block decodes so that the next step performs it: a frame at the port; a mode
nibble in its register, with a `GETSAMPLE` at the port, whose native tick runs it (log entry 5). -/
def State.place (s : State) : Source → State
  | .port f => s.present f
  | .modeRegister c m => { s with chip := s.chip.mapCh c (armMode m) }.present getSampleFrame

/-- Place a word numbered as the opcode table numbers it; a word outside its format is placed
nowhere. -/
def State.placeTableWord (s : State) (nbits w : Nat) : State :=
  match tableSource nbits w with
  | some src => s.place src
  | none => s

end Sys2Proof.Machine
end

