-- ==== Sys2Proof/Machine/Step.lean ====
section
/-! DEFINITION. One step of the machine: one host transaction, atomic (R8, R49), or nothing while
the host issues none. -/

namespace Sys2Proof.Machine

/-- Perform the host's next transaction. With none to issue the port is idle and the state does not
change (R8). A `cmd` that is no transaction is refused by name (R60, R181). -/
def step (s : State) : Host.Outcome State Fault Refusal :=
  match nextFrame s with
  | none => exec .idle s
  | some (f, s') =>
    match decode (.port f) with
    | .ok i => exec i s'
    | .error (.notATransaction cmd) => .refused (.notATransaction cmd)

/-- `s` with a table word placed where the next step performs it (log entry 5). -/
def State.withFetchWord (s : State) (nbits w : Nat) : State := s.placeTableWord nbits w

end Sys2Proof.Machine
end

