-- ==== Sys2Proof/Safety.lean ====
section
/-! DEFINITION. What holds of every state the machine can be in (R27, with R91 and R145), and which
states those are. -/

namespace Sys2Proof.Machine

/-- An amplitude of the volume scale: one of 0, 8, ..., 120 (R13, R14; R27 I2, I4). -/
abbrev Level.onScale (v : Level) : Prop := v.toNat % 8 = 0 ∧ v.toNat ≤ 120

/-- What holds of one channel between transactions (R27, R91). I3 is in the types of the
indices. -/
structure ChannelInv (x : ChannelState) : Prop where
  /-- I1. -/
  divisor : x.dividerMax = effDiv x.controlMode x.frequencyDivisor
  /-- I2. -/
  volume : Level.onScale x.volume
  /-- I4. -/
  level : Level.onScale x.outputLevel
  /-- I5, first half. -/
  stopped : x.dividerCounter = 0 ↔ x.dividerMax = 0
  /-- I5, second half. -/
  modeZero : x.dividerMax = 0 ↔ x.controlMode = 0
  /-- I6. -/
  counterBound : x.dividerCounter.toNat ≤ 96
  /-- I6. -/
  maxBound : x.dividerMax.toNat ≤ 96
  /-- R91: mode 0 drives the volume. -/
  forced : x.controlMode = 0 → x.outputLevel = x.volume

/-- What holds of the resampler between transactions (R27 I7 and I8, R145). -/
structure ResamplerInv (k : ChipState) : Prop where
  /-- I7; the upper bound 65535 is in the type. -/
  stepPositive : 1 ≤ k.accumulatorStep.toNat
  /-- I8: native rate at least the output rate. -/
  steady : 256 ≤ k.accumulatorStep.toNat → k.accumulator = 0 ∨
    ((k.accumulatorStep.toNat : Int) - 256 ≤ k.accumulator ∧
      k.accumulator ≤ (k.accumulatorStep.toNat : Int) + 255)
  /-- R145 (b): output rate above the native rate; the accumulator has fallen by a whole number of
  `256 - accumulatorStep`. -/
  falling : k.accumulatorStep.toNat < 256 → k.accumulator ≤ 0 ∧
    (256 - (k.accumulatorStep.toNat : Int)) ∣ k.accumulator

/-- The invariant of the machine. -/
structure State.Inv (s : State) : Prop where
  channel : ∀ c, ChannelInv (s.chip.ch c)
  resampler : ResamplerInv s.chip

/-- The states any sequence of host transactions can lead to, from reset (R27, R30). -/
inductive Reachable : State → Prop where
  /-- The machine after reset. -/
  | reset : Reachable State.reset
  /-- The host decides on one more transaction. -/
  | issue {s : State} (f : Frame) : Reachable s → Reachable (s.issue f)
  /-- The machine performs a step. -/
  | stepped {s t : State} : Reachable s → step s = .next t → Reachable t

end Sys2Proof.Machine
end

