-- ==== Sys2Proof/WellFormed.lean ====
section
/-! DEFINITION. Which instructions are well formed. There is one check: `WR_IGNORED` names an
address that is none of the six (R87); with one of the six it would be another instruction. Every
data value, every mode and every pair of rates is legal as an operand (R69, R74). -/

namespace Sys2Proof

/-- The check, one arm a constructor. -/
def Instr.wellFormed : Instr → Bool
  | .idle => true
  | .new _ _ => true
  | .getSample => true
  | .fillBuffer _ => true
  | .wrAudc0 _ => true
  | .wrAudc1 _ => true
  | .wrAudf0 _ => true
  | .wrAudf1 _ => true
  | .wrAudv0 _ => true
  | .wrAudv1 _ => true
  | .wrIgnored a _ => (decodeAddr a).isNone
  | .mode0 _ => true
  | .mode1 _ => true
  | .mode2 _ => true
  | .mode3 _ => true
  | .mode4 _ => true
  | .mode5 _ => true
  | .mode6 _ => true
  | .mode7 _ => true
  | .mode8 _ => true
  | .mode9 _ => true
  | .mode10 _ => true
  | .mode11 _ => true
  | .mode12 _ => true
  | .mode13 _ => true
  | .mode14 _ => true
  | .mode15 _ => true

end Sys2Proof
end

