-- ==== Sys2Proof/Certificates/Slice0/Obligations.lean ====
section
/-! DEFINITION. The statements about this machine. Where a docstring says "spec's choice", the
sentence rests on a decision or a derivation the spec marks as its own (`92_eei_decisions.md`); where
it says "model's choice", on a log entry under `notes/assumptions/`. -/

namespace Sys2Proof.Stated

open Sys2Proof.Machine

/-- What `Recompute(c)` leaves of a channel whose register has just been stored (R80): the level
forced to the volume in mode 0, `dividerMax` the effective divisor, and the counter reloaded with it
only if the divisor changed and the counter was 0 or the new divisor is 0. -/
def recomputed (x : ChannelState) : ChannelState :=
  { x with
    outputLevel := if x.controlMode = 0 then x.volume else x.outputLevel
    dividerMax := effDiv x.controlMode x.frequencyDivisor
    dividerCounter :=
      if effDiv x.controlMode x.frequencyDivisor ≠ x.dividerMax ∧
          (x.dividerCounter = 0 ∨ effDiv x.controlMode x.frequencyDivisor = 0)
      then effDiv x.controlMode x.frequencyDivisor else x.dividerCounter }

/-- `Recompute(c)` with the reload test beside the "differs" test instead of inside it (R90). -/
def recomputedBeside (x : ChannelState) : ChannelState :=
  let new := effDiv x.controlMode x.frequencyDivisor
  let y := if x.controlMode = 0 then { x with outputLevel := x.volume } else x
  let z := if new ≠ x.dividerMax then { y with dividerMax := new } else y
  if x.dividerCounter = 0 ∨ new = 0 then { z with dividerCounter := new } else z

/-- One native tick of a channel whose underflow event leaves `e` (R101): above 1 a decrement, at 1
the event, at 0 nothing. -/
def ticked (x e : ChannelState) : ChannelState :=
  if 1 < x.dividerCounter then { x with dividerCounter := x.dividerCounter - 1 }
  else if x.dividerCounter = 1 then e
  else x

/-- A channel after the reload and the unconditional advance of an underflow event (R102). -/
def reloaded (x : ChannelState) : ChannelState :=
  { x with
    dividerCounter := x.dividerMax
    poly5Index := ⟨(x.poly5Index.val + 1) % 31, Nat.mod_lt _ (by decide)⟩ }

/-- The poly4 action after the reload (R108). -/
def poly4Event (x : ChannelState) : ChannelState :=
  let p : Fin 15 := ⟨(x.poly4Index.val + 1) % 15, Nat.mod_lt _ (by decide)⟩
  { reloaded x with
    poly4Index := p
    outputLevel := if poly4Bit p = true then x.volume else 0 }

/-- The toggle action after the reload (R105). -/
def toggleEvent (x : ChannelState) : ChannelState :=
  { reloaded x with outputLevel := if x.outputLevel = 0 then x.volume else 0 }

/-- The poly9 action after the reload (R106). -/
def poly9Event (x : ChannelState) : ChannelState :=
  let p : Fin 511 := ⟨(x.poly9Index.val + 1) % 511, Nat.mod_lt _ (by decide)⟩
  { reloaded x with
    poly9Index := p
    outputLevel := if poly9Bit p = true then x.volume else 0 }

/-- The poly5 level action after the reload (R107), at the index the event has advanced. -/
def poly5Event (x : ChannelState) : ChannelState :=
  { reloaded x with
    outputLevel := if poly5Bit (reloaded x).poly5Index = true then x.volume else 0 }

/-- A gated event (R103, R109): `e` where the gating table holds 1 at the advanced index, else the
reload alone. -/
def gated (gate : Fin 31 → Bool) (x e : ChannelState) : ChannelState :=
  if gate (reloaded x).poly5Index = true then e else reloaded x

/-- The state after one native tick of channel `c` whose underflow event leaves `e`. -/
def afterTick (s : State) (c : ChannelId) (e : ChannelState) : State :=
  { s with chip := s.chip.setCh c (ticked (s.chip.ch c) e) }

/-- The number of native ticks `n` consecutive `GETSAMPLE`s perform, by R143. -/
def ticksOver : Nat → ChipState → Nat
  | 0, _ => 0
  | n + 1, k =>
    match getSample k with
    | some (k', _) => max 1 (k.accumulator / 256).toNat + ticksOver n k'
    | none => 0

end Sys2Proof.Stated

open Sys2Proof Sys2Proof.Machine

/-! ## Decoding, encoding, and what a step runs -/

/-- The command table of R60; the code points are the spec's choice (D1). Any other `cmd` is
rejected by name. -/
def Obligations.CommandPortDecodes : Prop :=
  ∀ f : Frame,
    (f.cmd = 0b000#3 → decode (.port f) = .ok .idle) ∧
    (f.cmd = 0b001#3 → decode (.port f) = .ok (decodeWr f.addr f.data)) ∧
    (f.cmd = 0b010#3 → decode (.port f) = .ok .getSample) ∧
    (f.cmd = 0b100#3 →
      decode (.port f) = .ok (.new f.nativeClockHz f.outputSampleRateHz)) ∧
    (f.cmd ≠ 0b000#3 → f.cmd ≠ 0b001#3 → f.cmd ≠ 0b010#3 → f.cmd ≠ 0b100#3 →
      decode (.port f) = .error (.notATransaction f.cmd))

/-- The six addresses of R41 and no other: all sixteen bits are compared, there is no mirror. The
numbers and the full compare are the spec's choice (D2, D3; log entry 4). -/
def Obligations.SixAddressesDecodeInFull : Prop :=
  decodeAddr 0x0015 = some (.ch0, .control) ∧ decodeAddr 0x0016 = some (.ch1, .control) ∧
  decodeAddr 0x0017 = some (.ch0, .frequency) ∧ decodeAddr 0x0018 = some (.ch1, .frequency) ∧
  decodeAddr 0x0019 = some (.ch0, .volume) ∧ decodeAddr 0x001A = some (.ch1, .volume) ∧
  ∀ a : Addr, a.toNat < 0x15 ∨ 0x1A < a.toNat → decodeAddr a = none

/-- Words written out from the spec's encodings: `cmd addr data` as in `95_test_vectors.md`, and
mode nibbles as in the table of R68 (the numbers are the spec's choice, D1, D2, D4). -/
def Obligations.WrittenOutWordsDecode : Prop :=
  decode (.port { cmd := 0b000 }) = .ok .idle ∧
  decode (.port { cmd := 0b001, addr := 0x0015, data := 0xF1 }) = .ok (.wrAudc0 0xF1) ∧
  decode (.port { cmd := 0b001, addr := 0x001A, data := 0x08 }) = .ok (.wrAudv1 0x08) ∧
  decode (.port { cmd := 0b001, addr := 0x0115, data := 0x00 }) = .ok (.wrIgnored 0x0115 0x00) ∧
  decode (.port { cmd := 0b010 }) = .ok .getSample ∧
  decode (.port { cmd := 0b100, nativeClockHz := 31400, outputSampleRateHz := 100 }) =
    .ok (.new 31400 100) ∧
  decode (.modeRegister .ch0 0b0001) = .ok (.mode1 .ch0) ∧
  decode (.modeRegister .ch1 0b0110) = .ok (.mode6 .ch1) ∧
  decode (.modeRegister .ch0 0b1000) = .ok (.mode8 .ch0) ∧
  decode (.modeRegister .ch1 0b1011) = .ok (.mode11 .ch1) ∧
  decode (.modeRegister .ch0 0b1101) = .ok (.mode13 .ch0)

/-- Decoding what a well-formed instruction encodes to gives it back, with every operand at every
value; `FILLBUFFER`, which has no encoding of its own (R72, R144), gives `n` `GETSAMPLE`s. -/
def Obligations.DecodeEncodeRoundTrip : Prop :=
  (∀ i : Instr, i.wellFormed = true → (∀ n, i ≠ .fillBuffer n) →
    (encode i).map decode = [.ok i]) ∧
  (∀ n : Nat, (encode (.fillBuffer n)).map decode = List.replicate n (.ok .getSample))

/-- What decodes to an instruction is its encoding, up to the operands its command does not use; a
mode nibble is its encoding exactly; and what the decoder gives is well formed. -/
def Obligations.DecodedSourceIsTheEncoding : Prop :=
  (∀ (f : Frame) (i : Instr), decode (.port f) = .ok i →
    i.wellFormed = true ∧ ∃ g : Frame, encode i = [.port g] ∧ g.cmd = f.cmd ∧
      (f.cmd = cmdWr → g.addr = f.addr ∧ g.data = f.data) ∧
      (f.cmd = cmdNew → g.nativeClockHz = f.nativeClockHz ∧
        g.outputSampleRateHz = f.outputSampleRateHz)) ∧
  (∀ (c : ChannelId) (m : Mode) (i : Instr), decode (.modeRegister c m) = .ok i →
    i.wellFormed = true ∧ encode i = [.modeRegister c m])

/-- A step performs the host's next transaction and nothing else (R8, R49): the decoded instruction
on the state with that transaction issued. With none pending the state does not change. -/
def Obligations.StepRunsDecodedTransaction : Prop :=
  (∀ (s : State) (f : Frame) (rest : List Frame) (i : Instr),
    s.pending = f :: rest → decode (.port f) = .ok i →
    step s = exec i { s with pending := rest }) ∧
  (∀ s : State, s.pending = [] → step s = .next s)

/-- No transaction, no change (R8; the code point `000` is the spec's choice, D1). -/
def Obligations.IdleChangesNothing : Prop :=
  ∀ s : State, exec .idle s = .next s

/-- A step goes on in every state but one kind: the port presents a `cmd` with more than one bit
set, which is refused by name (R60, R69 (f), R181). -/
def Obligations.StepStopsOnOverlappingCommandOnly : Prop :=
  ∀ s : State, (∃ t, step s = .next t) ∨
    ∃ f rest, s.pending = f :: rest ∧ f.cmd ≠ 0b000#3 ∧ f.cmd ≠ 0b001#3 ∧ f.cmd ≠ 0b010#3 ∧
      f.cmd ≠ 0b100#3 ∧ step s = .refused (.notATransaction f.cmd)

/-- Every instruction completes in every state, with every operand: no write can fail, `GETSAMPLE`
always terminates, a failed `NEW` is a result and not a stop (R69, R171, R175, R176). -/
def Obligations.EveryInstructionCompletes : Prop :=
  ∀ (i : Instr) (s : State), ∃ t, exec i s = .next t

/-- `InvalidConfiguration` is raised by `NEW` and by no other operation, and only for one of the
four causes of R170. -/
def Obligations.OnlyNewRaisesInvalidConfiguration : Prop :=
  ∀ (i : Instr) (s t : State), exec i s = .next t →
    s.result ≠ .invalidConfiguration → t.result = .invalidConfiguration →
    ∃ n o : Int, i = .new n o ∧
      (n ≤ 0 ∨ o ≤ 0 ∨ n * 256 / o = 0 ∨ 65535 < n * 256 / o)

/-! ## Operand assembly -/

/-- The effective divisor of R67, as a number: no bit is lost in eight (R7 (c), (d)). -/
def Obligations.EffectiveDivisorValue : Prop :=
  ∀ (m : Mode) (f : Freq),
    (effDiv m f).toNat =
      if m = 0 then 0 else if m &&& 0b1100 = 0b1100 then 3 * (f.toNat + 1) else f.toNat + 1

/-- The fields a write keeps of its data byte (R63, R64, R65): the low 4 bits, the low 5 bits, and
8 times the low 4 bits. -/
def Obligations.DataFieldsAreMasked : Prop :=
  ∀ d : Byte, (controlField d).toNat = d.toNat % 16 ∧ (frequencyField d).toNat = d.toNat % 32 ∧
    (volumeField d).toNat = 8 * (d.toNat % 16)

/-! ## The register writes -/

/-- `WR_AUDC0` and `WR_AUDC1` (R81, R82): the low four bits are stored as the mode of that channel,
then `Recompute`; the other channel, the resampler and the host's program are unchanged. -/
def Obligations.WriteControlResult : Prop :=
  ∀ (d : Byte) (s : State),
    decode (.port (wrFrame addrAudc0 d)) = .ok (.wrAudc0 d) ∧
    exec (.wrAudc0 d) s = .next { s with
      chip := { s.chip with
        ch0 := Stated.recomputed { s.chip.ch0 with controlMode := (d &&& 0x0F).setWidth 4 } }
      result := .nothing } ∧
    decode (.port (wrFrame addrAudc1 d)) = .ok (.wrAudc1 d) ∧
    exec (.wrAudc1 d) s = .next { s with
      chip := { s.chip with
        ch1 := Stated.recomputed { s.chip.ch1 with controlMode := (d &&& 0x0F).setWidth 4 } }
      result := .nothing }

/-- `WR_AUDF0` and `WR_AUDF1` (R83, R84): the low five bits are stored as the raw divisor. -/
def Obligations.WriteFrequencyResult : Prop :=
  ∀ (d : Byte) (s : State),
    decode (.port (wrFrame addrAudf0 d)) = .ok (.wrAudf0 d) ∧
    exec (.wrAudf0 d) s = .next { s with
      chip := { s.chip with
        ch0 := Stated.recomputed { s.chip.ch0 with frequencyDivisor := (d &&& 0x1F).setWidth 5 } }
      result := .nothing } ∧
    decode (.port (wrFrame addrAudf1 d)) = .ok (.wrAudf1 d) ∧
    exec (.wrAudf1 d) s = .next { s with
      chip := { s.chip with
        ch1 := Stated.recomputed { s.chip.ch1 with frequencyDivisor := (d &&& 0x1F).setWidth 5 } }
      result := .nothing }

/-- `WR_AUDV0` and `WR_AUDV1` (R85, R86): the low four bits, shifted left by three, are stored as
the volume; in mode 0 the level follows at once, in any other mode it is kept. That `Recompute`
follows a volume write too is the spec's own resolution (D5, conflict C1; log entry 14, DEDUCED). -/
def Obligations.WriteVolumeResult : Prop :=
  ∀ (d : Byte) (s : State),
    decode (.port (wrFrame addrAudv0 d)) = .ok (.wrAudv0 d) ∧
    exec (.wrAudv0 d) s = .next { s with
      chip := { s.chip with
        ch0 := Stated.recomputed
          { s.chip.ch0 with volume := ((d &&& 0x0F) <<< 3).setWidth 7 } }
      result := .nothing } ∧
    decode (.port (wrFrame addrAudv1 d)) = .ok (.wrAudv1 d) ∧
    exec (.wrAudv1 d) s = .next { s with
      chip := { s.chip with
        ch1 := Stated.recomputed
          { s.chip.ch1 with volume := ((d &&& 0x0F) <<< 3).setWidth 7 } }
      result := .nothing }

/-- `WR_IGNORED` (R87): a write whose address decodes to none changes no field of the block, raises
nothing and returns nothing. -/
def Obligations.IgnoredWriteChangesNothing : Prop :=
  ∀ (a : Addr) (d : Byte) (s : State),
    exec (.wrIgnored a d) s = .next { s with result := .nothing } ∧
    (decodeAddr a = none → decode (.port (wrFrame a d)) = .ok (.wrIgnored a d))

/-- The dispatcher of R88 over all addresses and all data. That `Recompute` follows a volume write
too is the spec's own resolution (D5, conflict C1; log entry 14, DEDUCED). -/
def Obligations.WriteDispatch : Prop :=
  ∀ (a : Addr) (d : Byte) (s : State), ∃ i, decode (.port (wrFrame a d)) = .ok i ∧
    exec i s = .next { s with
      chip :=
        match decodeAddr a with
        | some (c, .control) => s.chip.setCh c
            (Stated.recomputed { s.chip.ch c with controlMode := (d &&& 0x0F).setWidth 4 })
        | some (c, .frequency) => s.chip.setCh c
            (Stated.recomputed { s.chip.ch c with frequencyDivisor := (d &&& 0x1F).setWidth 5 })
        | some (c, .volume) => s.chip.setCh c
            (Stated.recomputed { s.chip.ch c with volume := ((d &&& 0x0F) <<< 3).setWidth 7 })
        | none => s.chip
      result := .nothing }

/-- The frame of a write (R89, R198): no position moves, no time passes, the step is kept, every
field of a channel the address does not name is kept, and of the channel it names the two registers
it does not name are kept. -/
def Obligations.WriteFrame : Prop :=
  ∀ (a : Addr) (d : Byte) (i : Instr) (s t : State),
    decode (.port (wrFrame a d)) = .ok i → exec i s = .next t →
    t.pending = s.pending ∧ t.chip.accumulator = s.chip.accumulator ∧
    t.chip.accumulatorStep = s.chip.accumulatorStep ∧
    (∀ c, (t.chip.ch c).poly4Index = (s.chip.ch c).poly4Index ∧
      (t.chip.ch c).poly5Index = (s.chip.ch c).poly5Index ∧
      (t.chip.ch c).poly9Index = (s.chip.ch c).poly9Index) ∧
    (∀ c, (∀ k, a ≠ regAddr c k) → t.chip.ch c = s.chip.ch c) ∧
    (∀ c, (a ≠ regAddr c .control → (t.chip.ch c).controlMode = (s.chip.ch c).controlMode) ∧
      (a ≠ regAddr c .frequency →
        (t.chip.ch c).frequencyDivisor = (s.chip.ch c).frequencyDivisor) ∧
      (a ≠ regAddr c .volume → (t.chip.ch c).volume = (s.chip.ch c).volume))

/-- Writing the same value twice in a row leaves what writing it once leaves (R46; a derivation of
the spec's). -/
def Obligations.RepeatedWriteIsIdempotent : Prop :=
  ∀ (a : Addr) (d : Byte) (i : Instr) (s t : State),
    decode (.port (wrFrame a d)) = .ok i → exec i s = .next t → exec i t = .next t

/-- The order of writes (R92; a derivation of the spec's): writes to different channels commute;
to one channel the order can matter, as in the spec's example. -/
def Obligations.WriteOrder : Prop :=
  (∀ (c c' : ChannelId) (k k' : RegKind) (d d' : Byte) (i i' : Instr) (s t u t' u' : State),
    c ≠ c' → decode (.port (wrFrame (regAddr c k) d)) = .ok i →
    decode (.port (wrFrame (regAddr c' k') d')) = .ok i' →
    exec i s = .next t → exec i' t = .next u → exec i' s = .next t' → exec i t' = .next u' →
    u = u') ∧
  (∃ t, core.run 2 { State.reset with
      pending := [wrFrame addrAudc0 0x04, wrFrame addrAudf0 0x03] } = .next t ∧
    t.chip.ch0.dividerMax = 4 ∧ t.chip.ch0.dividerCounter = 1) ∧
  (∃ t, core.run 2 { State.reset with
      pending := [wrFrame addrAudf0 0x03, wrFrame addrAudc0 0x04] } = .next t ∧
    t.chip.ch0.dividerMax = 4 ∧ t.chip.ch0.dividerCounter = 4)

/-- The two readings of the reload test give the same channel after any write, wherever the
invariant holds (R90; a derivation of the spec's). -/
def Obligations.RecomputeReadingsAgree : Prop :=
  ∀ (x : ChannelState) (d : Byte), ChannelInv x →
    writeControl d x = Stated.recomputedBeside { x with controlMode := controlField d } ∧
    writeFrequency d x = Stated.recomputedBeside { x with frequencyDivisor := frequencyField d } ∧
    writeVolume d x = Stated.recomputedBeside { x with volume := volumeField d }

/-- Lazy reload (R194): a divisor change while the divider runs does not restart it. After a
frequency write the count in progress completes, tick by tick, and the tick that finds it at 1 loads
the new `dividerMax`; a counter at 0 is reloaded at once when a non-zero mode is written; writing
mode 0 stops the channel at once. What a tick does is the spec's choice D6 (log entry 11). -/
def Obligations.LazyReload : Prop :=
  ∀ (c : ChannelId) (d : Byte) (i : Instr) (s t : State), exec i s = .next t →
    (decode (.port (wrFrame (regAddr c .frequency) d)) = .ok i →
      (s.chip.ch c).controlMode ≠ 0 → (s.chip.ch c).dividerCounter ≠ 0 →
      (t.chip.ch c).dividerCounter = (s.chip.ch c).dividerCounter ∧
      (t.chip.ch c).dividerMax = effDiv (s.chip.ch c).controlMode (frequencyField d) ∧
      (∀ n, n < (s.chip.ch c).dividerCounter.toNat →
        (tick^[n] t.chip).ch c = { t.chip.ch c with
          dividerCounter := (s.chip.ch c).dividerCounter - BitVec.ofNat 8 n }) ∧
      ((tick^[(s.chip.ch c).dividerCounter.toNat] t.chip).ch c).dividerCounter =
        (t.chip.ch c).dividerMax ∧
      ((tick^[(s.chip.ch c).dividerCounter.toNat] t.chip).ch c).poly5Index.val =
        ((s.chip.ch c).poly5Index.val + 1) % 31) ∧
    (decode (.port (wrFrame (regAddr c .control) d)) = .ok i →
      (controlField d ≠ 0 → (s.chip.ch c).dividerCounter ≠ 0 →
        (t.chip.ch c).dividerCounter = (s.chip.ch c).dividerCounter) ∧
      (controlField d ≠ 0 → (s.chip.ch c).dividerCounter = 0 → (s.chip.ch c).dividerMax = 0 →
        (t.chip.ch c).dividerCounter = effDiv (controlField d) (s.chip.ch c).frequencyDivisor) ∧
      (controlField d = 0 → (s.chip.ch c).dividerMax ≠ 0 → (t.chip.ch c).dividerCounter = 0))

/-! ## The waveform generator -/

/-- The divider underflow event (R102, R109): reload from the `dividerMax` of this tick, advance
`poly5Index` in every mode, then the gate on the advanced index, then the action or nothing. Where
the invariant holds, an event never stops the channel. -/
def Obligations.UnderflowEvent : Prop :=
  (∀ x : ChannelState, underflow x =
    if gatePasses x.controlMode (Stated.reloaded x).poly5Index = true
    then action (Stated.reloaded x) else Stated.reloaded x) ∧
  (∀ x : ChannelState, ChannelInv x → x.dividerCounter = 1 → (underflow x).dividerCounter ≠ 0)

/-- The gate of R103, in the named bits of the mode. -/
def Obligations.GateCondition : Prop :=
  ∀ (m : Mode) (p5 : Fin 31), gatePasses m p5 = true ↔
    gateBit m = false ∨
    (gateBit m = true ∧ invBit m = false ∧ div31Bit p5 = true) ∨
    (gateBit m = true ∧ invBit m = true ∧ poly5Bit p5 = true)

/-- The dispatch of R104 in the named bits, with what the table actions do (R106, R107, R108):
`PURE` before `SEL`, poly9 for `MODE_POLY9` only. -/
def Obligations.ActionDispatch : Prop :=
  ∀ x : ChannelState,
    (pureBit x.controlMode = true → action x = toggle x) ∧
    (pureBit x.controlMode = false → selBit x.controlMode = true → x.controlMode = modePoly9 →
      action x = { x with
        poly9Index := ⟨(x.poly9Index.val + 1) % 511, Nat.mod_lt _ (by decide)⟩
        outputLevel := if poly9Bit ⟨(x.poly9Index.val + 1) % 511, Nat.mod_lt _ (by decide)⟩ = true
          then x.volume else 0 }) ∧
    (pureBit x.controlMode = false → selBit x.controlMode = true → x.controlMode ≠ modePoly9 →
      action x = { x with
        outputLevel := if poly5Bit x.poly5Index = true then x.volume else 0 }) ∧
    (pureBit x.controlMode = false → selBit x.controlMode = false →
      action x = { x with
        poly4Index := ⟨(x.poly4Index.val + 1) % 15, Nat.mod_lt _ (by decide)⟩
        outputLevel := if poly4Bit ⟨(x.poly4Index.val + 1) % 15, Nat.mod_lt _ (by decide)⟩ = true
          then x.volume else 0 })

/-- A channel whose divisor is `N` at least 1 has an underflow exactly every `N` ticks (R101, with
the spec's choice D6, log entry 11): the first `N - 1` only count down, the `N`th is the event,
which leaves the divider full again. -/
def Obligations.UnderflowEveryDivisorTicks : Prop :=
  ∀ (k : ChipState) (c : ChannelId), (k.ch c).dividerMax ≠ 0 →
    (k.ch c).dividerCounter = (k.ch c).dividerMax →
    (∀ n, n < (k.ch c).dividerMax.toNat →
      (tick^[n] k).ch c = { k.ch c with
        dividerCounter := (k.ch c).dividerMax - BitVec.ofNat 8 n }) ∧
    (tick^[(k.ch c).dividerMax.toNat] k).ch c = underflow (k.ch c) ∧
    (underflow (k.ch c)).dividerCounter = (k.ch c).dividerMax

/-- The mode map of R68 against the bit tests of R101 to R108, in every state (R129): running the
mode a channel's register decodes to is `ChannelStep` of that channel and nothing else. The mode map
rests on D4 (log entry 9); a mode as an instruction is the model's choice (log entry 10). -/
def Obligations.ModesAreTheBitTests : Prop :=
  ∀ (c : ChannelId) (s : State) (i : Instr),
    decode (.modeRegister c (s.chip.ch c).controlMode) = .ok i →
    exec i s = .next { s with chip := s.chip.setCh c (channelStep (s.chip.ch c)) }

/-- `MODE_0` (R110): the divider stands at 0, and a tick changes nothing. In a state no run reaches
the rules give an event with the poly4 action (R129). A mode as an instruction is the model's choice
(log entry 10), here and in the five statements below, whose mode numbers rest on D4 (log
entry 9). -/
def Obligations.ModeZeroResult : Prop :=
  ∀ (c : ChannelId) (s : State),
    exec (.mode0 c) s = .next (Stated.afterTick s c (Stated.poly4Event (s.chip.ch c))) ∧
    ((s.chip.ch c).dividerCounter = 0 → exec (.mode0 c) s = .next s)

/-- `MODE_1`, `MODE_2`, `MODE_3` (R111 to R113): the poly4 action, at every event, where
`DIV31_GATE` holds 1, where `POLY5_BITS` holds 1. -/
def Obligations.PolyFourModeResults : Prop :=
  ∀ (c : ChannelId) (s : State),
    exec (.mode1 c) s = .next (Stated.afterTick s c (Stated.poly4Event (s.chip.ch c))) ∧
    exec (.mode2 c) s = .next (Stated.afterTick s c
      (Stated.gated div31Bit (s.chip.ch c) (Stated.poly4Event (s.chip.ch c)))) ∧
    exec (.mode3 c) s = .next (Stated.afterTick s c
      (Stated.gated poly5Bit (s.chip.ch c) (Stated.poly4Event (s.chip.ch c))))

/-- `MODE_4`, `MODE_5`, `MODE_12`, `MODE_13` (R114, R115, R122, R123): the level toggles at every
event. That any non-zero level counts as on is the spec's choice (D7, log entry 12). -/
def Obligations.PureToneModeResults : Prop :=
  ∀ (c : ChannelId) (s : State),
    exec (.mode4 c) s = .next (Stated.afterTick s c (Stated.toggleEvent (s.chip.ch c))) ∧
    exec (.mode5 c) s = .next (Stated.afterTick s c (Stated.toggleEvent (s.chip.ch c))) ∧
    exec (.mode12 c) s = .next (Stated.afterTick s c (Stated.toggleEvent (s.chip.ch c))) ∧
    exec (.mode13 c) s = .next (Stated.afterTick s c (Stated.toggleEvent (s.chip.ch c)))

/-- `MODE_6`, `MODE_14` (R116, R124) toggle where `DIV31_GATE` holds 1, `MODE_7`, `MODE_15` (R117,
R125) where `POLY5_BITS` holds 1. -/
def Obligations.GatedPureToneModeResults : Prop :=
  ∀ (c : ChannelId) (s : State),
    exec (.mode6 c) s = .next (Stated.afterTick s c
      (Stated.gated div31Bit (s.chip.ch c) (Stated.toggleEvent (s.chip.ch c)))) ∧
    exec (.mode14 c) s = .next (Stated.afterTick s c
      (Stated.gated div31Bit (s.chip.ch c) (Stated.toggleEvent (s.chip.ch c)))) ∧
    exec (.mode7 c) s = .next (Stated.afterTick s c
      (Stated.gated poly5Bit (s.chip.ch c) (Stated.toggleEvent (s.chip.ch c)))) ∧
    exec (.mode15 c) s = .next (Stated.afterTick s c
      (Stated.gated poly5Bit (s.chip.ch c) (Stated.toggleEvent (s.chip.ch c))))

/-- `MODE_8` (R118): the poly9 action at every event. -/
def Obligations.PolyNineModeResult : Prop :=
  ∀ (c : ChannelId) (s : State),
    exec (.mode8 c) s = .next (Stated.afterTick s c (Stated.poly9Event (s.chip.ch c)))

/-- `MODE_9`, `MODE_10`, `MODE_11` (R119 to R121): the poly5 level action, at every event, where
`DIV31_GATE` holds 1, where `POLY5_BITS` itself holds 1. -/
def Obligations.PolyFiveModeResults : Prop :=
  ∀ (c : ChannelId) (s : State),
    exec (.mode9 c) s = .next (Stated.afterTick s c (Stated.poly5Event (s.chip.ch c))) ∧
    exec (.mode10 c) s = .next (Stated.afterTick s c
      (Stated.gated div31Bit (s.chip.ch c) (Stated.poly5Event (s.chip.ch c)))) ∧
    exec (.mode11 c) s = .next (Stated.afterTick s c
      (Stated.gated poly5Bit (s.chip.ch c) (Stated.poly5Event (s.chip.ch c))))

/-- The frame of the sixteen modes: the other channel, the resampler, the port, the three registers
and the reload value are kept; only the poly4 modes move `poly4Index` and only mode 8 moves
`poly9Index`; on a tick without underflow nothing but the counter changes; and the level is kept or
becomes 0 or the volume. The modes are named by numbers the spec presumes (D4; log entry 9), and
running mode `m` whatever the register holds is the model's choice (log entry 10). -/
def Obligations.ModeFrame : Prop :=
  ∀ (c : ChannelId) (m : Mode) (i : Instr) (s t : State),
    decode (.modeRegister c m) = .ok i → exec i s = .next t →
    t.pending = s.pending ∧ t.result = s.result ∧ t.chip.accumulator = s.chip.accumulator ∧
    t.chip.accumulatorStep = s.chip.accumulatorStep ∧
    (∀ c', c' ≠ c → t.chip.ch c' = s.chip.ch c') ∧
    (t.chip.ch c).controlMode = (s.chip.ch c).controlMode ∧
    (t.chip.ch c).frequencyDivisor = (s.chip.ch c).frequencyDivisor ∧
    (t.chip.ch c).volume = (s.chip.ch c).volume ∧
    (t.chip.ch c).dividerMax = (s.chip.ch c).dividerMax ∧
    (3 < m.toNat → (t.chip.ch c).poly4Index = (s.chip.ch c).poly4Index) ∧
    (m ≠ 0b1000 → (t.chip.ch c).poly9Index = (s.chip.ch c).poly9Index) ∧
    ((s.chip.ch c).dividerCounter ≠ 1 → t.chip.ch c = { s.chip.ch c with
      dividerCounter := (t.chip.ch c).dividerCounter }) ∧
    ((t.chip.ch c).outputLevel = (s.chip.ch c).outputLevel ∨ (t.chip.ch c).outputLevel = 0 ∨
      (t.chip.ch c).outputLevel = (s.chip.ch c).volume)

/-- Div-by-3 (R127; a derivation of the spec's): for the same raw divisor a mode in 12 to 15 has
three times the divisor of the mode with bit 3 clear, and a tick of it is the same. The mode numbers
rest on D4 (log entry 9), a mode as an instruction on log entry 10. -/
def Obligations.DivideByThreeModes : Prop :=
  ∀ (m : Mode), 4 ≤ m.toNat → m.toNat < 8 →
    (∀ f : Freq, (effDiv (m ||| 0b1000) f).toNat = 3 * (effDiv m f).toNat) ∧
    (∀ (c : ChannelId) (s : State) (i i' : Instr), decode (.modeRegister c m) = .ok i →
      decode (.modeRegister c (m ||| 0b1000)) = .ok i' → exec i' s = exec i s)

/-- Periodicity (R126; a derivation of the spec's), counted in underflow events, from any phase and
for any table contents: `poly5Index` with period 31 in every mode; the level with period 15 in
mode 1, 31 in mode 9, 511 in mode 8, from the first event on. Modes 8 and 9 are named by numbers the
spec presumes (D4; log entry 9). -/
def Obligations.SequencesArePeriodic : Prop :=
  ∀ (x : ChannelState) (k : Nat),
    (underflow^[k + 31] x).poly5Index = (underflow^[k] x).poly5Index ∧
    (x.controlMode = 1 → 1 ≤ k →
      (underflow^[k + 15] x).outputLevel = (underflow^[k] x).outputLevel) ∧
    (x.controlMode = 9 → 1 ≤ k →
      (underflow^[k + 31] x).outputLevel = (underflow^[k] x).outputLevel) ∧
    (x.controlMode = 8 → 1 ≤ k →
      (underflow^[k + 511] x).outputLevel = (underflow^[k] x).outputLevel)

/-- In mode 11 nothing ever turns a channel off (R121, R195): over any number of ticks a level that
is on stays on, the volume being on. The mode is named by a number the spec presumes (D4; log
entry 9). -/
def Obligations.ModeElevenNeverTurnsOff : Prop :=
  ∀ (k : ChipState) (c : ChannelId) (n : Nat), (k.ch c).controlMode = 11 →
    (k.ch c).volume ≠ 0 → (k.ch c).outputLevel ≠ 0 → ((tick^[n] k).ch c).outputLevel ≠ 0

/-- A channel whose volume and level are 0 contributes 0 from then on, whatever the host does, until
it writes that channel's volume register with a non-zero field (R195, conflict C2). -/
def Obligations.SilentChannelStaysSilent : Prop :=
  ∀ (s t : State) (c : ChannelId), step s = .next t →
    (s.chip.ch c).volume = 0 → (s.chip.ch c).outputLevel = 0 →
    (∀ f rest, s.pending = f :: rest → f.cmd = cmdWr → f.addr = regAddr c .volume →
      f.data.toNat % 16 = 0) →
    (t.chip.ch c).volume = 0 ∧ (t.chip.ch c).outputLevel = 0

/-! ## The resampler -/

/-- One `NTICK` (R141): the tick, the subtraction of 256, the signed comparison with 256, and on a
sample the addition of the step. The accumulator is an unbounded integer by the spec's choice (D8,
log entry 13). The order of the channels in a tick cannot be observed (R100). -/
def Obligations.NativeTickResult : Prop :=
  ∀ k : ChipState,
    (k.accumulator - 256 < 256 → ntick k = ({ tick k with
      accumulator := k.accumulator - 256 + (k.accumulatorStep.toNat : Int) },
      some (mix (tick k)))) ∧
    (256 ≤ k.accumulator - 256 →
      ntick k = ({ tick k with accumulator := k.accumulator - 256 }, none)) ∧
    tick k = { k with ch0 := channelStep k.ch0, ch1 := channelStep k.ch1 } ∧
    tick k = (k.mapCh .ch1 channelStep).mapCh .ch0 channelStep

/-- `GETSAMPLE` (R142, R143): from every state it completes, after exactly
`K = max(1, floor(acc / 256))` native ticks, with the accumulator lowered by `256 * K` and raised by
the step, and returns the mix after the last tick. `K` is a derivation of the spec's. -/
def Obligations.GetSampleResult : Prop :=
  ∀ s : State,
    exec .getSample s = .next { s with
      chip := { tick^[max 1 (s.chip.accumulator / 256).toNat] s.chip with
        accumulator := s.chip.accumulator
          - 256 * (max 1 (s.chip.accumulator / 256).toNat : Nat)
          + (s.chip.accumulatorStep.toNat : Int) }
      result := .sample (mix (tick^[max 1 (s.chip.accumulator / 256).toNat] s.chip)) }

/-- The number of native ticks of a `GETSAMPLE` is between 1 and 256 wherever the invariant holds
(R143, R203), and is 1 whenever the step is below 256 or the accumulator is 0 (R142 (a), (b)). -/
def Obligations.TickCountBounds : Prop :=
  ∀ s : State, s.Inv →
    1 ≤ tickCount s.chip.accumulator ∧ tickCount s.chip.accumulator ≤ 256 ∧
    (s.chip.accumulator = 0 ∨ s.chip.accumulatorStep.toNat < 256 →
      tickCount s.chip.accumulator = 1) ∧
    tickCount s.chip.accumulator = max 1 (s.chip.accumulator / 256).toNat

/-- The frame of `GETSAMPLE` and `FILLBUFFER`: the three registers and the reload value of both
channels, the step and the host's program are kept (R11 to R13, R16, R21). -/
def Obligations.SamplingFrame : Prop :=
  ∀ (i : Instr) (s t : State), (i = .getSample ∨ ∃ n, i = .fillBuffer n) →
    exec i s = .next t →
    t.pending = s.pending ∧ t.chip.accumulatorStep = s.chip.accumulatorStep ∧
    ∀ c, (t.chip.ch c).controlMode = (s.chip.ch c).controlMode ∧
      (t.chip.ch c).frequencyDivisor = (s.chip.ch c).frequencyDivisor ∧
      (t.chip.ch c).volume = (s.chip.ch c).volume ∧
      (t.chip.ch c).dividerMax = (s.chip.ch c).dividerMax

/-- The channels meet only in the mixer (R179): what a `GETSAMPLE` does to one channel and to the
accumulator does not depend on the other channel. -/
def Obligations.ChannelsDoNotInterfere : Prop :=
  ∀ (s s' t t' : State) (c : ChannelId), s.chip.ch c = s'.chip.ch c →
    s.chip.accumulator = s'.chip.accumulator →
    s.chip.accumulatorStep = s'.chip.accumulatorStep →
    exec .getSample s = .next t → exec .getSample s' = .next t' →
    t.chip.ch c = t'.chip.ch c ∧ t.chip.accumulator = t'.chip.accumulator

/-- In mode 0 every sample carries exactly the volume (R91, R110), and the channel is not clocked. -/
def Obligations.ModeZeroHoldsTheVolume : Prop :=
  ∀ (s : State) (c : ChannelId), s.Inv → (s.chip.ch c).controlMode = 0 →
    ∃ t, exec .getSample s = .next t ∧ t.chip.ch c = s.chip.ch c ∧
      (t.chip.ch c).outputLevel = (s.chip.ch c).volume ∧ t.result = .sample (mix t.chip)

/-- The mixer (R140): the plain sum, which eight bits hold; at most 240 on the volume scale. -/
def Obligations.MixIsThePlainSum : Prop :=
  ∀ k : ChipState,
    (mix k).toNat = k.ch0.outputLevel.toNat + k.ch1.outputLevel.toNat ∧
    (Level.onScale k.ch0.outputLevel → Level.onScale k.ch1.outputLevel → (mix k).toNat ≤ 240)

/-- `FILLBUFFER` (R144): of no slot it changes nothing (the spec's choice, D20), of `n + 1` slots it
is a `GETSAMPLE` into slot 0 and then a `FILLBUFFER` of the other `n`. -/
def Obligations.FillBufferIsRepeatedGetSample : Prop :=
  (∀ s : State, exec (.fillBuffer 0) s = .next { s with result := .buffer [] }) ∧
  (∀ (n : Nat) (s : State), ∃ (t u : State) (v : Sample) (vs : List Sample),
    exec .getSample s = .next t ∧ t.result = .sample v ∧
    exec (.fillBuffer n) t = .next u ∧ u.result = .buffer vs ∧ vs.length = n ∧
    exec (.fillBuffer (n + 1)) s = .next { u with result := .buffer (v :: vs) })

/-- `FILLBUFFER` against the port (R72): performing the `n` `GETSAMPLE` frames it encodes to leaves
the block as `FILLBUFFER` leaves it. -/
def Obligations.FillBufferIsItsPortSequence : Prop :=
  ∀ (n : Nat) (s : State) (rest : List Frame),
    s.pending = List.replicate n getSampleFrame ++ rest →
    ∃ t u : State, core.run n s = .next t ∧ exec (.fillBuffer n) { s with pending := rest } = .next u ∧
      t.chip = u.chip ∧ t.pending = rest

/-- The long-run rate (R146; a derivation of the spec's): over `n` consecutive `GETSAMPLE`s the ticks
weigh the `n` steps but for the change of the accumulator; from a zero accumulator, with the native
rate at least the output rate, by less than one step and one tick; at a ratio of 2:1 they are
`2n - 2` (1998 for the 1000 calls of the document's example). -/
def Obligations.LongRunRate : Prop :=
  ∀ (n : Nat) (s u : State), exec (.fillBuffer n) s = .next u →
    256 * (Stated.ticksOver n s.chip : Int) =
      n * (s.chip.accumulatorStep.toNat : Int) + s.chip.accumulator - u.chip.accumulator ∧
    (s.chip.accumulator = 0 → 256 ≤ s.chip.accumulatorStep.toNat →
      |256 * (Stated.ticksOver n s.chip : Int) - n * (s.chip.accumulatorStep.toNat : Int)| <
        (s.chip.accumulatorStep.toNat : Int) + 256) ∧
    (s.chip.accumulator = 0 → s.chip.accumulatorStep.toNat = 512 → 2 ≤ n →
      Stated.ticksOver n s.chip = 2 * n - 2)

/-! ## Construction and reset -/

/-- `NEW` with a valid pair of rates (R160 to R163): every field of both channels is 0, the
accumulator is 0, the step is `(native << 8) / output`, whatever the state was. Floor division (D9),
the bounds (D10) and the full zeroing (D17) are the spec's choices. -/
def Obligations.NewCreatesAZeroState : Prop :=
  ∀ (n o : Int) (s : State), 1 ≤ n → 1 ≤ o → 1 ≤ n * 256 / o → n * 256 / o ≤ 65535 →
    ∃ w : StepWord, (w.toNat : Int) = n * 256 / o ∧
      exec (.new n o) s = .next { s with
        chip := { ch0 := ⟨0, 0, 0, 0, 0, 0, 0, 0, 0⟩, ch1 := ⟨0, 0, 0, 0, 0, 0, 0, 0, 0⟩,
                  accumulator := 0, accumulatorStep := w }
        result := .constructed }

/-- `NEW` with an invalid pair (R161, R170, R175): `InvalidConfiguration` is its result, and the
existing block is unchanged (the spec's choice, D18). -/
def Obligations.NewRejectsInvalidRates : Prop :=
  ∀ (n o : Int) (s : State), n ≤ 0 ∨ o ≤ 0 ∨ n * 256 / o < 1 ∨ 65535 < n * 256 / o →
    exec (.new n o) s = .next { s with result := .invalidConfiguration }

/-- Validity in terms of the rates (R161): both at least 1, the output rate at most 256 times the
native rate and above one 256th of it; and the step is the floor of the ratio (R162). -/
def Obligations.ValidRates : Prop :=
  ∀ n o : Int,
    ((validStep n o).isSome = true ↔ 1 ≤ n ∧ 1 ≤ o ∧ o ≤ 256 * n ∧ n < 256 * o) ∧
    (∀ w, validStep n o = some w → (w.toNat : Int) * o ≤ n * 256 ∧
      n * 256 < ((w.toNat : Int) + 1) * o ∧ 1 ≤ w.toNat)

/-- The machine after reset (R28, R190): every field of both channels and the accumulator are zero,
and the block is the one `NEW` creates from any state with the two rates of log entry 3 (the model's
choice, as is `accumulatorStep` = 256). -/
def Obligations.ResetIsAZeroState : Prop :=
  State.reset.chip.ch0 = ⟨0, 0, 0, 0, 0, 0, 0, 0, 0⟩ ∧
  State.reset.chip.ch1 = ⟨0, 0, 0, 0, 0, 0, 0, 0, 0⟩ ∧ State.reset.chip.accumulator = 0 ∧
  ∀ s : State, ∃ t,
    exec (.new Config.resetNativeClockHz Config.resetOutputSampleRateHz) s = .next t ∧
    t.chip = State.reset.chip

/-- After a reset, whatever its rates, the block is silent and stopped (R192): while no register is
written, every `GETSAMPLE` returns 0 and moves only the accumulator. -/
def Obligations.SilentAfterReset : Prop :=
  ∀ s : State, s.chip.ch0 = ChannelState.zero → s.chip.ch1 = ChannelState.zero →
    ∃ a : Int, exec .getSample s = .next { s with
      chip := { s.chip with accumulator := a }
      result := .sample 0 }

/-! ## The invariant and the whole machine -/

/-- The machine after reset meets the invariant. -/
def Obligations.ResetMeetsTheInvariant : Prop := State.reset.Inv

/-- Every step keeps the invariant (R27, R91, R145; derivations of the spec's), from every state that
meets it, whatever transactions the host has pending. That mode 0 drives the volume after a volume
write too rests on conflict C1 (log entry 14). -/
def Obligations.StepKeepsTheInvariant : Prop :=
  ∀ s t : State, s.Inv → step s = .next t → t.Inv

/-- The invariants of R27 hold in every state any sequence of transactions can reach from reset. -/
def Obligations.ReachableStatesMeetTheInvariant : Prop :=
  ∀ s : State, Reachable s → s.Inv

/-- Who writes what (R11, R12, R13, R21), over all instructions and states: a register of a channel
changes only by its own write or by `NEW`, and `accumulatorStep` only by `NEW`. -/
def Obligations.RegistersChangeByTheirOwnWritesOnly : Prop :=
  ∀ (i : Instr) (s t : State), exec i s = .next t →
    (∀ c, (t.chip.ch c).controlMode = (s.chip.ch c).controlMode ∨ (∃ n o, i = .new n o) ∨
      ∃ d, decode (.port (wrFrame (regAddr c .control) d)) = .ok i) ∧
    (∀ c, (t.chip.ch c).frequencyDivisor = (s.chip.ch c).frequencyDivisor ∨
      (∃ n o, i = .new n o) ∨
      ∃ d, decode (.port (wrFrame (regAddr c .frequency) d)) = .ok i) ∧
    (∀ c, (t.chip.ch c).volume = (s.chip.ch c).volume ∨ (∃ n o, i = .new n o) ∨
      ∃ d, decode (.port (wrFrame (regAddr c .volume) d)) = .ok i) ∧
    (t.chip.accumulatorStep = s.chip.accumulatorStep ∨ ∃ n o, i = .new n o)

/-- Time passes only inside `GETSAMPLE` (R50, R196, R198): over all transactions, the positions and
the accumulator change only by a `GETSAMPLE` or by `NEW`. -/
def Obligations.TimePassesOnlyInGetSample : Prop :=
  ∀ (f : Frame) (i : Instr) (s t : State), decode (.port f) = .ok i → exec i s = .next t →
    (i = .getSample ∨ (∃ n o, i = .new n o) ∨
      (t.chip.accumulator = s.chip.accumulator ∧
        ∀ c, (t.chip.ch c).poly4Index = (s.chip.ch c).poly4Index ∧
          (t.chip.ch c).poly5Index = (s.chip.ch c).poly5Index ∧
          (t.chip.ch c).poly9Index = (s.chip.ch c).poly9Index))

/-- The assembler (R71, R72; the line syntax is the spec's choice, D14): a register name stands for
its address, `FILL n` for `n` `SAMPLE`s and `FILL 0` for nothing, and the mnemonic of a `WR` is
`WR_X` for a register name and `WR_IGNORED` otherwise. -/
def Obligations.AssemblerLinesExpand : Prop :=
  (∀ (c : ChannelId) (k : RegKind) (d : Byte),
    (AsmLine.wr (.reg c k) d).frames = [wrFrame (regAddr c k) d] ∧
    (decodeWr (regAddr c k) d).mnemonic =
      match c, k with
      | .ch0, .control => "WR_AUDC0"
      | .ch1, .control => "WR_AUDC1"
      | .ch0, .frequency => "WR_AUDF0"
      | .ch1, .frequency => "WR_AUDF1"
      | .ch0, .volume => "WR_AUDV0"
      | .ch1, .volume => "WR_AUDV1") ∧
  (∀ (a : Addr) (d : Byte), decodeAddr a = none → (decodeWr a d).mnemonic = "WR_IGNORED") ∧
  (∀ n : Nat, (AsmLine.fill n).frames =
    (List.replicate n AsmLine.sample).flatMap AsmLine.frames)
end

