-- ==== Sys2Proof/Laws/State.lean ====
section
/-! SUPPORT. One lemma per field per update of the state, all by `rfl`, so that no later proof
unfolds a record update. -/

namespace Sys2Proof.Machine

/-! ## `setCh` and `mapCh` on the block -/

@[simp] theorem ChipState.ch_ch0 (k : ChipState) : k.ch .ch0 = k.ch0 := rfl
@[simp] theorem ChipState.ch_ch1 (k : ChipState) : k.ch .ch1 = k.ch1 := rfl
@[simp] theorem ChipState.setCh_ch0_ch0 (k : ChipState) (x : ChannelState) :
    (k.setCh .ch0 x).ch0 = x := rfl
@[simp] theorem ChipState.setCh_ch0_ch1 (k : ChipState) (x : ChannelState) :
    (k.setCh .ch0 x).ch1 = k.ch1 := rfl
@[simp] theorem ChipState.setCh_ch1_ch0 (k : ChipState) (x : ChannelState) :
    (k.setCh .ch1 x).ch0 = k.ch0 := rfl
@[simp] theorem ChipState.setCh_ch1_ch1 (k : ChipState) (x : ChannelState) :
    (k.setCh .ch1 x).ch1 = x := rfl
@[simp] theorem ChipState.setCh_accumulator (k : ChipState) (c : ChannelId) (x : ChannelState) :
    (k.setCh c x).accumulator = k.accumulator := by cases c <;> rfl
@[simp] theorem ChipState.setCh_accumulatorStep (k : ChipState) (c : ChannelId)
    (x : ChannelState) : (k.setCh c x).accumulatorStep = k.accumulatorStep := by cases c <;> rfl
@[simp] theorem ChipState.mapCh_accumulator (k : ChipState) (c : ChannelId)
    (f : ChannelState → ChannelState) : (k.mapCh c f).accumulator = k.accumulator := by
  cases c <;> rfl
@[simp] theorem ChipState.mapCh_accumulatorStep (k : ChipState) (c : ChannelId)
    (f : ChannelState → ChannelState) : (k.mapCh c f).accumulatorStep = k.accumulatorStep := by
  cases c <;> rfl

/-- Reading the channel just written. -/
@[simp] theorem ChipState.ch_setCh_same (k : ChipState) (c : ChannelId) (x : ChannelState) :
    (k.setCh c x).ch c = x := by cases c <;> rfl

/-- Writing one channel leaves the other alone. -/
theorem ChipState.ch_setCh_other (k : ChipState) {c d : ChannelId} (x : ChannelState)
    (h : d ≠ c) : (k.setCh c x).ch d = k.ch d := by
  cases c <;> cases d <;> first | rfl | exact absurd rfl h

@[simp] theorem ChipState.ch_mapCh_same (k : ChipState) (c : ChannelId)
    (f : ChannelState → ChannelState) : (k.mapCh c f).ch c = f (k.ch c) := by cases c <;> rfl

theorem ChipState.ch_mapCh_other (k : ChipState) {c d : ChannelId}
    (f : ChannelState → ChannelState) (h : d ≠ c) : (k.mapCh c f).ch d = k.ch d :=
  k.ch_setCh_other _ h

/-- Two blocks with the same channels and the same resampler are the same block. -/
theorem ChipState.ext_ch {k l : ChipState} (h : ∀ c, k.ch c = l.ch c)
    (ha : k.accumulator = l.accumulator) (hs : k.accumulatorStep = l.accumulatorStep) : k = l := by
  have h0 := h .ch0
  have h1 := h .ch1
  cases k
  cases l
  simp_all

/-! ## Updates of the machine -/

@[simp] theorem State.writeCh_chip (s : State) (c : ChannelId) (f : ChannelState → ChannelState) :
    (s.writeCh c f).chip = s.chip.mapCh c f := rfl
@[simp] theorem State.writeCh_pending (s : State) (c : ChannelId)
    (f : ChannelState → ChannelState) : (s.writeCh c f).pending = s.pending := rfl
@[simp] theorem State.writeCh_result (s : State) (c : ChannelId)
    (f : ChannelState → ChannelState) : (s.writeCh c f).result = .nothing := rfl
@[simp] theorem State.tickCh_chip (s : State) (c : ChannelId) (f : ChannelState → ChannelState) :
    (s.tickCh c f).chip = s.chip.mapCh c f := rfl
@[simp] theorem State.tickCh_pending (s : State) (c : ChannelId)
    (f : ChannelState → ChannelState) : (s.tickCh c f).pending = s.pending := rfl
@[simp] theorem State.tickCh_result (s : State) (c : ChannelId)
    (f : ChannelState → ChannelState) : (s.tickCh c f).result = s.result := rfl
@[simp] theorem State.withResult_chip (s : State) (r : Result) : (s.withResult r).chip = s.chip :=
  rfl
@[simp] theorem State.withResult_pending (s : State) (r : Result) :
    (s.withResult r).pending = s.pending := rfl
@[simp] theorem State.withResult_result (s : State) (r : Result) : (s.withResult r).result = r :=
  rfl
@[simp] theorem State.raise_chip (s : State) : s.raiseInvalidConfiguration.chip = s.chip := rfl
@[simp] theorem State.raise_pending (s : State) :
    s.raiseInvalidConfiguration.pending = s.pending := rfl
@[simp] theorem State.raise_result (s : State) :
    s.raiseInvalidConfiguration.result = .invalidConfiguration := rfl

/-! ## Positions -/

@[simp] theorem nextIndex_val {L : Nat} (i : Fin L) : (nextIndex i).val = (i.val + 1) % L := rfl

/-! ## A created block -/

@[simp] theorem ChipState.created_ch (w : StepWord) (c : ChannelId) :
    (ChipState.created w).ch c = ChannelState.zero := by cases c <;> rfl
@[simp] theorem ChipState.created_accumulator (w : StepWord) :
    (ChipState.created w).accumulator = 0 := rfl
@[simp] theorem ChipState.created_accumulatorStep (w : StepWord) :
    (ChipState.created w).accumulatorStep = w := rfl

end Sys2Proof.Machine
end

