-- ==== Sys2Proof/Laws/Channel.lean ====
section
/-! SUPPORT. One lemma for each operation on a channel that says everything it can do: `Recompute`,
the divider, the underflow event, the actions. -/

namespace Sys2Proof.Machine

/-! ## `Recompute` (R80) -/

/-- Everything `Recompute` does, field by field. -/
theorem recompute_eq (x : ChannelState) :
    recompute x =
      { x with
        outputLevel := if x.controlMode = 0 then x.volume else x.outputLevel
        dividerMax := effDiv x.controlMode x.frequencyDivisor
        dividerCounter :=
          if effDiv x.controlMode x.frequencyDivisor ≠ x.dividerMax ∧
              (x.dividerCounter = 0 ∨ effDiv x.controlMode x.frequencyDivisor = 0)
          then effDiv x.controlMode x.frequencyDivisor else x.dividerCounter } := by
  by_cases hm : x.controlMode = 0 <;>
    by_cases hn : effDiv x.controlMode x.frequencyDivisor = x.dividerMax <;>
    simp [recompute, hm, hn] <;> simp_all

@[simp] theorem recompute_controlMode (x : ChannelState) :
    (recompute x).controlMode = x.controlMode := by rw [recompute_eq]
@[simp] theorem recompute_frequencyDivisor (x : ChannelState) :
    (recompute x).frequencyDivisor = x.frequencyDivisor := by rw [recompute_eq]
@[simp] theorem recompute_volume (x : ChannelState) : (recompute x).volume = x.volume := by
  rw [recompute_eq]
@[simp] theorem recompute_dividerMax (x : ChannelState) :
    (recompute x).dividerMax = effDiv x.controlMode x.frequencyDivisor := by rw [recompute_eq]
@[simp] theorem recompute_outputLevel (x : ChannelState) :
    (recompute x).outputLevel = if x.controlMode = 0 then x.volume else x.outputLevel := by
  rw [recompute_eq]
@[simp] theorem recompute_poly4Index (x : ChannelState) :
    (recompute x).poly4Index = x.poly4Index := by rw [recompute_eq]
@[simp] theorem recompute_poly5Index (x : ChannelState) :
    (recompute x).poly5Index = x.poly5Index := by rw [recompute_eq]
@[simp] theorem recompute_poly9Index (x : ChannelState) :
    (recompute x).poly9Index = x.poly9Index := by rw [recompute_eq]

/-! ## The divider and the event (R101, R102, R109) -/

/-- Above 1 the divider only decrements. -/
theorem divide_running {e : ChannelState → ChannelState} {x : ChannelState}
    (h : 1 < x.dividerCounter) :
    divide e x = { x with dividerCounter := x.dividerCounter - 1 } := if_pos h

/-- At 1 the event runs. -/
theorem divide_underflow {e : ChannelState → ChannelState} {x : ChannelState}
    (h : x.dividerCounter = 1) : divide e x = e x := by simp [divide, h]

/-- At 0 nothing happens. -/
theorem divide_stopped {e : ChannelState → ChannelState} {x : ChannelState}
    (h : x.dividerCounter = 0) : divide e x = x := by simp [divide, h]

/-- The three cases of the divider are all there are. -/
theorem divider_cases (n : Divider) : 1 < n ∨ n = 1 ∨ n = 0 := by bv_omega

/-- Everything `reload` does. -/
theorem reload_eq (x : ChannelState) : reload x =
    { x with dividerCounter := x.dividerMax, poly5Index := nextIndex x.poly5Index } := rfl

/-- What no action touches: the three registers, the divider and `poly5Index` (R105 to R108). -/
structure SameButLevel (x y : ChannelState) : Prop where
  controlMode : y.controlMode = x.controlMode
  frequencyDivisor : y.frequencyDivisor = x.frequencyDivisor
  volume : y.volume = x.volume
  dividerCounter : y.dividerCounter = x.dividerCounter
  dividerMax : y.dividerMax = x.dividerMax
  poly5Index : y.poly5Index = x.poly5Index
  level : y.outputLevel = 0 ∨ y.outputLevel = x.volume

/-- `Toggle` with its two cases in the other order. -/
theorem toggle_eq (x : ChannelState) :
    toggle x = { x with outputLevel := if x.outputLevel = 0 then x.volume else 0 } := by
  rw [toggle]
  simp only [ne_eq, ite_not]

theorem toggle_spec (x : ChannelState) : SameButLevel x (toggle x) := by
  constructor <;> try rfl
  by_cases h : x.outputLevel = 0
  · exact .inr (if_neg (not_not_intro h))
  · exact .inl (if_pos h)

theorem levelOf_cases (b : Bool) (v : Level) : levelOf b v = 0 ∨ levelOf b v = v := by
  cases b <;> simp [levelOf]

theorem poly9_spec (x : ChannelState) : SameButLevel x (poly9 x) :=
  ⟨rfl, rfl, rfl, rfl, rfl, rfl, levelOf_cases _ _⟩

theorem poly5Level_spec (x : ChannelState) : SameButLevel x (poly5Level x) :=
  ⟨rfl, rfl, rfl, rfl, rfl, rfl, levelOf_cases _ _⟩

theorem poly4_spec (x : ChannelState) : SameButLevel x (poly4 x) :=
  ⟨rfl, rfl, rfl, rfl, rfl, rfl, levelOf_cases _ _⟩

/-- Whichever action the mode selects, it sets the level to 0 or to the volume and touches no
register, no divider and no `poly5Index` (R104 to R108). -/
theorem action_spec (x : ChannelState) : SameButLevel x (action x) := by
  unfold action
  split_ifs
  · exact toggle_spec x
  · exact poly9_spec x
  · exact poly5Level_spec x
  · exact poly4_spec x

/-- Everything an event can do, given that its action keeps what every action keeps. -/
theorem eventOf_cases (gate : Fin 31 → Bool) (act : ChannelState → ChannelState)
    (x : ChannelState) :
    (gate (nextIndex x.poly5Index) = true ∧ eventOf gate act x = act (reload x)) ∨
    (gate (nextIndex x.poly5Index) = false ∧ eventOf gate act x = reload x) := by
  cases h : gate (nextIndex x.poly5Index) <;> simp [eventOf, reload, h]

/-- What a native tick never touches: the three registers and the reload value (R101 to R109). -/
structure SameRegisters (x y : ChannelState) : Prop where
  controlMode : y.controlMode = x.controlMode
  frequencyDivisor : y.frequencyDivisor = x.frequencyDivisor
  volume : y.volume = x.volume
  dividerMax : y.dividerMax = x.dividerMax
  level : y.outputLevel = x.outputLevel ∨ y.outputLevel = 0 ∨ y.outputLevel = x.volume

/-- The divider over any event whose action keeps what every action keeps. -/
theorem divide_eventOf_spec {gate : Fin 31 → Bool} {act : ChannelState → ChannelState}
    (ha : ∀ y, SameButLevel y (act y)) (x : ChannelState) :
    SameRegisters x (divide (eventOf gate act) x) := by
  rcases divider_cases x.dividerCounter with h | h | h
  · rw [divide_running h]; exact ⟨rfl, rfl, rfl, rfl, .inl rfl⟩
  · rw [divide_underflow h]
    rcases eventOf_cases gate act x with ⟨-, e⟩ | ⟨-, e⟩ <;> rw [e]
    · have := ha (reload x)
      exact ⟨this.controlMode, this.frequencyDivisor, this.volume, this.dividerMax,
        .inr this.level⟩
    · exact ⟨rfl, rfl, rfl, rfl, .inl rfl⟩
  · rw [divide_stopped h]; exact ⟨rfl, rfl, rfl, rfl, .inl rfl⟩

/-- `ChannelStep` touches no register and no reload value. -/
theorem channelStep_spec (x : ChannelState) : SameRegisters x (channelStep x) :=
  divide_eventOf_spec (gate := gatePasses x.controlMode) action_spec x

end Sys2Proof.Machine
end

