-- ==== Sys2Proof/Laws/Decode.lean ====
section
/-! SUPPORT. What each function of the decoder can do, once. -/

namespace Sys2Proof

/-- A register name's address decodes to the register it names (R41, R62). -/
@[simp] theorem decodeAddr_regAddr (c : ChannelId) (k : RegKind) :
    decodeAddr (regAddr c k) = some (c, k) := by
  cases c <;> cases k <;> rfl

/-- `decodeAddr` gives a register exactly where all sixteen bits are that register's address. -/
theorem decodeAddr_eq_some {a : Addr} {c : ChannelId} {k : RegKind} :
    decodeAddr a = some (c, k) ↔ a = regAddr c k := by
  refine ⟨fun h => ?_, fun h => h ▸ decodeAddr_regAddr c k⟩
  unfold decodeAddr at h
  split_ifs at h <;>
    · simp only [Option.some.injEq, Prod.mk.injEq] at h
      obtain ⟨rfl, rfl⟩ := h
      assumption

/-- A write to a register name decodes to that register's operation (R61). -/
theorem decodeWr_regAddr (c : ChannelId) (k : RegKind) (d : Byte) :
    decodeWr (regAddr c k) d =
      match c, k with
      | .ch0, .control => .wrAudc0 d
      | .ch1, .control => .wrAudc1 d
      | .ch0, .frequency => .wrAudf0 d
      | .ch1, .frequency => .wrAudf1 d
      | .ch0, .volume => .wrAudv0 d
      | .ch1, .volume => .wrAudv1 d := by
  cases c <;> cases k <;> rfl

/-- A write to an unmapped address is `WR_IGNORED` (R87). -/
theorem decodeWr_unmapped {a : Addr} (h : decodeAddr a = none) (d : Byte) :
    decodeWr a d = .wrIgnored a d := by
  simp [decodeWr, h]

/-- The frame of a `WR` decodes to the operation its address selects. -/
@[simp] theorem decode_wrFrame (a : Addr) (d : Byte) :
    decode (.port (wrFrame a d)) = .ok (decodeWr a d) := rfl

@[simp] theorem decode_getSampleFrame : decode (.port getSampleFrame) = .ok .getSample := rfl

@[simp] theorem decode_newFrame (n o : Int) : decode (.port (newFrame n o)) = .ok (.new n o) := rfl

@[simp] theorem decode_modeRegister (c : ChannelId) (m : Mode) :
    decode (.modeRegister c m) = .ok (decodeMode c m) := rfl

/-- Everything `decodeFrame` can answer. -/
theorem decodeFrame_cases (f : Frame) :
    (f.cmd = cmdIdle ∧ decodeFrame f = .ok .idle) ∨
    (f.cmd = cmdWr ∧ decodeFrame f = .ok (decodeWr f.addr f.data)) ∨
    (f.cmd = cmdGetSample ∧ decodeFrame f = .ok .getSample) ∨
    (f.cmd = cmdNew ∧ decodeFrame f = .ok (.new f.nativeClockHz f.outputSampleRateHz)) ∨
    (f.cmd ≠ cmdIdle ∧ f.cmd ≠ cmdWr ∧ f.cmd ≠ cmdGetSample ∧ f.cmd ≠ cmdNew ∧
      decodeFrame f = .error (.notATransaction f.cmd)) := by
  unfold decodeFrame
  split_ifs <;> simp_all [cmdIdle, cmdWr, cmdGetSample, cmdNew]

/-- The only instruction with a well-formedness check. -/
theorem wellFormed_wrIgnored (a : Addr) (d : Byte) :
    (Instr.wrIgnored a d).wellFormed = true ↔ decodeAddr a = none := by
  simp [Instr.wellFormed]

end Sys2Proof
end

