-- ==== Sys2Proof/Laws/PerInstr.lean ====
section
/-! SUPPORT. Statements about every instruction as syntax, one lemma per constructor. Family
`LegalCommand`: what an instruction encodes to never presents more than one entry point at once at
the command port (R60, R69 (f)). -/

namespace Sys2Proof.Laws

/-- Every frame an instruction encodes to carries one of the four commands of R60. -/
def LegalCommand.Statement (i : Instr) : Prop :=
  ∀ f, Source.port f ∈ encode i →
    f.cmd = cmdIdle ∨ f.cmd = cmdWr ∨ f.cmd = cmdGetSample ∨ f.cmd = cmdNew

theorem LegalCommand.idle : LegalCommand.Statement .idle := by
  simp [LegalCommand.Statement, encode]

theorem LegalCommand.new (n o : Int) : LegalCommand.Statement (.new n o) := by
  simp [LegalCommand.Statement, encode, newFrame]

theorem LegalCommand.getSample : LegalCommand.Statement .getSample := by
  simp [LegalCommand.Statement, encode, getSampleFrame]

theorem LegalCommand.fillBuffer (n : Nat) : LegalCommand.Statement (.fillBuffer n) := by
  simp only [LegalCommand.Statement, encode]
  intro f h
  obtain rfl : f = getSampleFrame := by simpa using List.eq_of_mem_replicate h
  simp [getSampleFrame]

theorem LegalCommand.wrAudc0 (d : Byte) : LegalCommand.Statement (.wrAudc0 d) := by
  simp [LegalCommand.Statement, encode, wrFrame]

theorem LegalCommand.wrAudc1 (d : Byte) : LegalCommand.Statement (.wrAudc1 d) := by
  simp [LegalCommand.Statement, encode, wrFrame]

theorem LegalCommand.wrAudf0 (d : Byte) : LegalCommand.Statement (.wrAudf0 d) := by
  simp [LegalCommand.Statement, encode, wrFrame]

theorem LegalCommand.wrAudf1 (d : Byte) : LegalCommand.Statement (.wrAudf1 d) := by
  simp [LegalCommand.Statement, encode, wrFrame]

theorem LegalCommand.wrAudv0 (d : Byte) : LegalCommand.Statement (.wrAudv0 d) := by
  simp [LegalCommand.Statement, encode, wrFrame]

theorem LegalCommand.wrAudv1 (d : Byte) : LegalCommand.Statement (.wrAudv1 d) := by
  simp [LegalCommand.Statement, encode, wrFrame]

theorem LegalCommand.wrIgnored (a : Addr) (d : Byte) : LegalCommand.Statement (.wrIgnored a d) := by
  simp [LegalCommand.Statement, encode, wrFrame]

theorem LegalCommand.mode0 (c : ChannelId) : LegalCommand.Statement (.mode0 c) := by
  simp [LegalCommand.Statement, encode]

theorem LegalCommand.mode1 (c : ChannelId) : LegalCommand.Statement (.mode1 c) := by
  simp [LegalCommand.Statement, encode]

theorem LegalCommand.mode2 (c : ChannelId) : LegalCommand.Statement (.mode2 c) := by
  simp [LegalCommand.Statement, encode]

theorem LegalCommand.mode3 (c : ChannelId) : LegalCommand.Statement (.mode3 c) := by
  simp [LegalCommand.Statement, encode]

theorem LegalCommand.mode4 (c : ChannelId) : LegalCommand.Statement (.mode4 c) := by
  simp [LegalCommand.Statement, encode]

theorem LegalCommand.mode5 (c : ChannelId) : LegalCommand.Statement (.mode5 c) := by
  simp [LegalCommand.Statement, encode]

theorem LegalCommand.mode6 (c : ChannelId) : LegalCommand.Statement (.mode6 c) := by
  simp [LegalCommand.Statement, encode]

theorem LegalCommand.mode7 (c : ChannelId) : LegalCommand.Statement (.mode7 c) := by
  simp [LegalCommand.Statement, encode]

theorem LegalCommand.mode8 (c : ChannelId) : LegalCommand.Statement (.mode8 c) := by
  simp [LegalCommand.Statement, encode]

theorem LegalCommand.mode9 (c : ChannelId) : LegalCommand.Statement (.mode9 c) := by
  simp [LegalCommand.Statement, encode]

theorem LegalCommand.mode10 (c : ChannelId) : LegalCommand.Statement (.mode10 c) := by
  simp [LegalCommand.Statement, encode]

theorem LegalCommand.mode11 (c : ChannelId) : LegalCommand.Statement (.mode11 c) := by
  simp [LegalCommand.Statement, encode]

theorem LegalCommand.mode12 (c : ChannelId) : LegalCommand.Statement (.mode12 c) := by
  simp [LegalCommand.Statement, encode]

theorem LegalCommand.mode13 (c : ChannelId) : LegalCommand.Statement (.mode13 c) := by
  simp [LegalCommand.Statement, encode]

theorem LegalCommand.mode14 (c : ChannelId) : LegalCommand.Statement (.mode14 c) := by
  simp [LegalCommand.Statement, encode]

theorem LegalCommand.mode15 (c : ChannelId) : LegalCommand.Statement (.mode15 c) := by
  simp [LegalCommand.Statement, encode]

end Sys2Proof.Laws
end

