-- ==== Sys2Proof/Laws/Resampler.lean ====
section
/-! SUPPORT. What a tick, an `NTICK`, the sample loop and `FILLBUFFER` can do, once each. -/

namespace Sys2Proof.Machine

/-- `TICK` steps each channel by itself (R100). -/
@[simp] theorem tick_ch (k : ChipState) (c : ChannelId) : (tick k).ch c = channelStep (k.ch c) := by
  cases c <;> rfl

@[simp] theorem tick_accumulator (k : ChipState) : (tick k).accumulator = k.accumulator := rfl

@[simp] theorem tick_accumulatorStep (k : ChipState) :
    (tick k).accumulatorStep = k.accumulatorStep := rfl

/-- A tick does not read the resampler. -/
theorem tick_with_accumulator (k : ChipState) (a : Int) :
    tick { k with accumulator := a } = { tick k with accumulator := a } := rfl

/-- The mix is of the levels alone. -/
@[simp] theorem mix_with_accumulator (k : ChipState) (a : Int) :
    mix { k with accumulator := a } = mix k := rfl

/-- An `NTICK` that emits (R141). -/
theorem ntick_emits {k : ChipState} (h : k.accumulator < 512) :
    ntick k = ({ tick k with
      accumulator := k.accumulator - 256 + (k.accumulatorStep.toNat : Int) },
      some (mix (tick k))) := by
  have : k.accumulator - 256 < 256 := by omega
  simp [ntick, tickWeight, this]

/-- An `NTICK` that does not (R141). -/
theorem ntick_silent {k : ChipState} (h : 512 ≤ k.accumulator) :
    ntick k = ({ tick k with accumulator := k.accumulator - 256 }, none) := by
  have : ¬ k.accumulator - 256 < 256 := by omega
  simp [ntick, tickWeight, this]

/-- The loop where its first tick emits. -/
theorem sampleLoop_emits {k : ChipState} (n : Nat) (h : k.accumulator < 512) :
    sampleLoop (n + 1) k = some ({ tick k with
      accumulator := k.accumulator - 256 + (k.accumulatorStep.toNat : Int) }, mix (tick k)) := by
  rw [sampleLoop, ntick_emits h]

/-- The loop where its first tick does not. -/
theorem sampleLoop_silent {k : ChipState} (n : Nat) (h : 512 ≤ k.accumulator) :
    sampleLoop (n + 1) k =
      sampleLoop n { tick k with accumulator := k.accumulator - 256 } := by
  rw [sampleLoop, ntick_silent h]

/-- At least one native tick a sample (R142). -/
theorem tickCount_pos (a : Int) : 1 ≤ tickCount a := Nat.le_max_left _ _

@[simp] theorem fillSlots_zero (k : ChipState) : fillSlots 0 k = some (k, []) := rfl

/-- `FILLBUFFER` of one slot more is a `GETSAMPLE` and then the rest (R144). -/
theorem fillSlots_succ {k k' : ChipState} {v : Sample} (n : Nat)
    (h : getSample k = some (k', v)) :
    fillSlots (n + 1) k = (fillSlots n k').map fun p => (p.1, v :: p.2) := by
  rw [fillSlots, h]
  cases h' : fillSlots n k' <;> simp [h']

end Sys2Proof.Machine
end

