-- ==== Sys2Proof/Laws/Step.lean ====
section
/-! SUPPORT. What the port, `NEW` and a step can do, once each. -/

namespace Sys2Proof.Machine

/-- What `NEW` does with a valid pair of rates (R163). -/
theorem execNew_valid {n o : Int} {w : StepWord} (h : validStep n o = some w) (s : State) :
    execNew n o s = .next { s with chip := ChipState.created w, result := .constructed } := by
  simp [execNew, h]

/-- What `NEW` does with an invalid pair (R175). -/
theorem execNew_invalid {n o : Int} (h : validStep n o = none) (s : State) :
    execNew n o s = .next s.raiseInvalidConfiguration := by
  simp [execNew, h]

@[simp] theorem nextFrame_nil {s : State} (h : s.pending = []) : nextFrame s = none := by
  simp [nextFrame, h]

@[simp] theorem nextFrame_cons {s : State} {f : Frame} {rest : List Frame}
    (h : s.pending = f :: rest) : nextFrame s = some (f, { s with pending := rest }) := by
  simp [nextFrame, h]

/-- Everything a step can be: idle, the decoded instruction, or a refused command. -/
theorem step_cases (s : State) :
    (s.pending = [] ∧ step s = .next s) ∨
    (∃ f rest i, s.pending = f :: rest ∧ decode (.port f) = .ok i ∧
      step s = exec i { s with pending := rest }) ∨
    (∃ f rest, s.pending = f :: rest ∧ decode (.port f) = .error (.notATransaction f.cmd) ∧
      step s = .refused (.notATransaction f.cmd)) := by
  cases h : s.pending with
  | nil => exact .inl ⟨rfl, by simp [step, h, exec, execIdle]⟩
  | cons f rest =>
    cases hd : decode (.port f) with
    | ok i => exact .inr (.inl ⟨f, rest, i, rfl, hd, by simp only [step, nextFrame_cons h, hd]⟩)
    | error e =>
      have he : e = .notATransaction f.cmd := by
        rcases decodeFrame_cases f with ⟨-, h'⟩ | ⟨-, h'⟩ | ⟨-, h'⟩ | ⟨-, h'⟩ | ⟨-, -, -, -, h'⟩ <;>
          simp_all [decode]
      subst he
      exact .inr (.inr ⟨f, rest, rfl, hd, by simp only [step, nextFrame_cons h, hd]⟩)

/-- A property that reset has, that the host's next decision keeps and that every step keeps,
holds of every reachable state. -/
theorem reachable_induct {P : State → Prop} (h0 : P State.reset)
    (hi : ∀ s f, P s → P (s.issue f)) (hs : ∀ s t, P s → step s = .next t → P t)
    {s : State} (h : Reachable s) : P s := by
  induction h with
  | reset => exact h0
  | issue f _ ih => exact hi _ f ih
  | stepped _ e ih => exact hs _ _ ih e

/-- The sixteen nibbles. -/
theorem mode_cases : ∀ m : Mode, m = 0 ∨ m = 1 ∨ m = 2 ∨ m = 3 ∨ m = 4 ∨ m = 5 ∨ m = 6 ∨ m = 7 ∨
    m = 8 ∨ m = 9 ∨ m = 10 ∨ m = 11 ∨ m = 12 ∨ m = 13 ∨ m = 14 ∨ m = 15 := by decide

/-- Everything a mode can do: one tick of its channel over an event with some gate and some action,
an action that moves `poly4Index` in modes 0 to 3 only and `poly9Index` in mode 8 only. -/
theorem exec_mode (c : ChannelId) (m : Mode) : ∃ gate act,
    (∀ s, exec (decodeMode c m) s = .next (s.tickCh c (divide (eventOf gate act)))) ∧
    (∀ y, SameButLevel y (act y)) ∧
    (3 < m.toNat → ∀ y, (act y).poly4Index = y.poly4Index) ∧
    (m ≠ 8 → ∀ y, (act y).poly9Index = y.poly9Index) := by
  rcases mode_cases m with
    rfl | rfl | rfl | rfl | rfl | rfl | rfl | rfl | rfl | rfl | rfl | rfl | rfl | rfl | rfl | rfl
  · exact ⟨gateAlways, poly4, fun _ => rfl, poly4_spec, fun h => absurd h (by decide), fun _ _ => rfl⟩
  · exact ⟨gateAlways, poly4, fun _ => rfl, poly4_spec, fun h => absurd h (by decide), fun _ _ => rfl⟩
  · exact ⟨gateDiv31, poly4, fun _ => rfl, poly4_spec, fun h => absurd h (by decide), fun _ _ => rfl⟩
  · exact ⟨gatePoly5, poly4, fun _ => rfl, poly4_spec, fun h => absurd h (by decide), fun _ _ => rfl⟩
  · exact ⟨gateAlways, toggle, fun _ => rfl, toggle_spec, fun _ _ => rfl, fun _ _ => rfl⟩
  · exact ⟨gateAlways, toggle, fun _ => rfl, toggle_spec, fun _ _ => rfl, fun _ _ => rfl⟩
  · exact ⟨gateDiv31, toggle, fun _ => rfl, toggle_spec, fun _ _ => rfl, fun _ _ => rfl⟩
  · exact ⟨gatePoly5, toggle, fun _ => rfl, toggle_spec, fun _ _ => rfl, fun _ _ => rfl⟩
  · exact ⟨gateAlways, poly9, fun _ => rfl, poly9_spec, fun _ _ => rfl, fun h => absurd rfl h⟩
  · exact ⟨gateAlways, poly5Level, fun _ => rfl, poly5Level_spec, fun _ _ => rfl, fun _ _ => rfl⟩
  · exact ⟨gateDiv31, poly5Level, fun _ => rfl, poly5Level_spec, fun _ _ => rfl, fun _ _ => rfl⟩
  · exact ⟨gatePoly5, poly5Level, fun _ => rfl, poly5Level_spec, fun _ _ => rfl, fun _ _ => rfl⟩
  · exact ⟨gateAlways, toggle, fun _ => rfl, toggle_spec, fun _ _ => rfl, fun _ _ => rfl⟩
  · exact ⟨gateAlways, toggle, fun _ => rfl, toggle_spec, fun _ _ => rfl, fun _ _ => rfl⟩
  · exact ⟨gateDiv31, toggle, fun _ => rfl, toggle_spec, fun _ _ => rfl, fun _ _ => rfl⟩
  · exact ⟨gatePoly5, toggle, fun _ => rfl, toggle_spec, fun _ _ => rfl, fun _ _ => rfl⟩

end Sys2Proof.Machine
end

