-- ==== Sys2Proof/Laws/Run.lean ====
section
/-! SUPPORT. Runs of several steps, and iterated ticks of one channel. -/

namespace Sys2Proof.Machine

/-- A run of `n + 1` steps whose first step goes on is the run of `n` steps from there. -/
theorem run_next {n : Nat} {s t : State} (h : step s = .next t) :
    core.run (n + 1) s = core.run n t := by
  have : core.step s = .next t := h
  simp only [Host.Core.run]
  rw [this]

/-- A channel whose divider stands at 0 is not clocked, over any number of ticks (R101). -/
theorem channelStep_iterate_stopped {x : ChannelState} (h : x.dividerCounter = 0) (n : Nat) :
    channelStep^[n] x = x := by
  induction n with
  | zero => rfl
  | succ n ih => rw [Function.iterate_succ_apply, channelStep, divide_stopped h]; exact ih

/-- Ticks never write the three registers of a channel or its reload value (R11 to R13, R16). -/
theorem channelStep_iterate_registers (n : Nat) (x : ChannelState) :
    (channelStep^[n] x).controlMode = x.controlMode ∧
    (channelStep^[n] x).frequencyDivisor = x.frequencyDivisor ∧
    (channelStep^[n] x).volume = x.volume ∧
    (channelStep^[n] x).dividerMax = x.dividerMax := by
  induction n with
  | zero => exact ⟨rfl, rfl, rfl, rfl⟩
  | succ n ih =>
    rw [Function.iterate_succ_apply']
    have sp := channelStep_spec (channelStep^[n] x)
    exact ⟨sp.controlMode.trans ih.1, sp.frequencyDivisor.trans ih.2.1, sp.volume.trans ih.2.2.1,
      sp.dividerMax.trans ih.2.2.2⟩

end Sys2Proof.Machine
end

