-- ==== Sys2Proof/Tests/Slice0.lean ====
section
/-! SUPPORT. Tests. Every expected value is one the spec writes out (the section of
`95_test_vectors.md`, or the rule, is named); then a witness for the hypotheses of every statement
that has any. -/

namespace Sys2Proof.Tests

open Sys2Proof.Machine

/-! ## Well-formedness: an ill-formed term for each check, and the boundary of the check -/

theorem test_wellFormed_refuses_mapped_address_low :
    (Instr.wrIgnored 0x0015 0x00).wellFormed = false := by decide
theorem test_wellFormed_refuses_mapped_address_high :
    (Instr.wrIgnored 0x001A 0xFF).wellFormed = false := by decide
theorem test_wellFormed_admits_unmapped_address :
    (Instr.wrIgnored 0x001B 0xFF).wellFormed = true := by decide

/-! ## Decoding: words written out from the spec's encodings -/

/-- R60: `000`, whatever the operands show. -/
theorem test_decode_idle : decode (.port { cmd := 0b000#3, addr := 0x0015, data := 0x01 }) =
    .ok .idle := by decide
/-- R60: `100`, with the operands of E1. -/
theorem test_decode_new :
    decode (.port { cmd := 0b100#3, nativeClockHz := 31400, outputSampleRateHz := 31400 }) =
      .ok (.new 31400 31400) := by decide
/-- R60: `010`. -/
theorem test_decode_getSample : decode (.port { cmd := 0b010#3 }) = .ok .getSample := by decide
/-- R72: `FILL 3` is `010` three times. -/
theorem test_encode_fillBuffer : encode (.fillBuffer 3) =
    [.port { cmd := 0b010#3 }, .port { cmd := 0b010#3 }, .port { cmd := 0b010#3 }] := by decide
/-- Section 4, P5: `001 0x0015 0xF1`. -/
theorem test_decode_wrAudc0 : decode (.port
    { cmd := 0b001#3, addr := 0b0000000000010101#16, data := 0b11110001#8 }) =
      .ok (.wrAudc0 0xF1) := by decide
/-- Section 4, P4: `001 0x0016 0x0C`. -/
theorem test_decode_wrAudc1 : decode (.port
    { cmd := 0b001#3, addr := 0b0000000000010110#16, data := 0b00001100#8 }) =
      .ok (.wrAudc1 0x0C) := by decide
/-- Section 4, P5: `001 0x0017 0xE0`. -/
theorem test_decode_wrAudf0 : decode (.port
    { cmd := 0b001#3, addr := 0b0000000000010111#16, data := 0b11100000#8 }) =
      .ok (.wrAudf0 0xE0) := by decide
/-- Section 3.2: `001 0x0018 0x1F`. -/
theorem test_decode_wrAudf1 : decode (.port
    { cmd := 0b001#3, addr := 0b0000000000011000#16, data := 0b00011111#8 }) =
      .ok (.wrAudf1 0x1F) := by decide
/-- E1: `001 0x0019 0x0F`. -/
theorem test_decode_wrAudv0 : decode (.port
    { cmd := 0b001#3, addr := 0b0000000000011001#16, data := 0b00001111#8 }) =
      .ok (.wrAudv0 0x0F) := by decide
/-- Section 4, P2: `001 0x001A 0x08`. -/
theorem test_decode_wrAudv1 : decode (.port
    { cmd := 0b001#3, addr := 0b0000000000011010#16, data := 0b00001000#8 }) =
      .ok (.wrAudv1 0x08) := by decide
/-- Section 3.2: `001 0x0115 0x00`, no mirror. -/
theorem test_decode_wrIgnored : decode (.port
    { cmd := 0b001#3, addr := 0b0000000100010101#16, data := 0 }) =
      .ok (.wrIgnored 0x0115 0x00) := by decide
/-- R60, R69 (f): more than one entry point at once. -/
theorem test_decode_rejects_overlap : decode (.port { cmd := 0b011#3 }) =
    .error (.notATransaction 0b011) := by decide
/-- R68, the nibbles `SEL PURE GATE INV`, in the order of the table. -/
theorem test_decode_modes :
    ([0b0000, 0b0001, 0b0010, 0b0011, 0b0100, 0b0101, 0b0110, 0b0111] : List Mode).map
        (fun m => decode (.modeRegister .ch0 m)) =
      [.ok (.mode0 .ch0), .ok (.mode1 .ch0), .ok (.mode2 .ch0), .ok (.mode3 .ch0),
        .ok (.mode4 .ch0), .ok (.mode5 .ch0), .ok (.mode6 .ch0), .ok (.mode7 .ch0)] ∧
    ([0b1000, 0b1001, 0b1010, 0b1011, 0b1100, 0b1101, 0b1110, 0b1111] : List Mode).map
        (fun m => decode (.modeRegister .ch1 m)) =
      [.ok (.mode8 .ch1), .ok (.mode9 .ch1), .ok (.mode10 .ch1), .ok (.mode11 .ch1),
        .ok (.mode12 .ch1), .ok (.mode13 .ch1), .ok (.mode14 .ch1), .ok (.mode15 .ch1)] := by
  decide
/-- The words of the opcode table's rows `WR_AUDC0`, `WR_AUDV1` and `MODE_11`. -/
theorem test_decode_table_words :
    decodeTableWord 16 0x0015 = some (.wrAudc0 0) ∧ decodeTableWord 16 0x001A = some (.wrAudv1 0) ∧
    decodeTableWord 8 0b1011 = some (.mode11 .ch0) ∧ decodeTableWord 3 0b010 = some .getSample := by
  decide
/-- Section 4, P3 and R71: hexadecimal, decimal and binary numbers, a name, a comment. -/
theorem test_assemble : assemble ["NEW   31400, 31400        ; step 256".toList,
      "WR AUDC0, 0b0100".toList, "WR    0x1B, 0xFF".toList, "; nothing".toList, "FILL  2".toList,
      "SAMPLE".toList] =
    some [{ cmd := 0b100, nativeClockHz := 31400, outputSampleRateHz := 31400 },
      { cmd := 0b001, addr := 0x0015, data := 0x04 },
      { cmd := 0b001, addr := 0x001B, data := 0xFF },
      { cmd := 0b010 }, { cmd := 0b010 }, { cmd := 0b010 }] := by decide
/-- R71: a malformed line. -/
theorem test_assemble_rejects : assemble ["WR AUDC0 0x04".toList] = none := by decide

/-! ## One step at a time -/

/-- The machine after reset with another channel 0. -/
def withCh0 (x : ChannelState) : State :=
  { State.reset with chip := { State.reset.chip with ch0 := x } }

/-- The machine after reset with another channel 1. -/
def withCh1 (x : ChannelState) : State :=
  { State.reset with chip := { State.reset.chip with ch1 := x } }

/-- A block with both channels all zero, and this resampler. -/
def withResampler (acc : Int) (step : StepWord) : State :=
  { State.reset with chip := { ChipState.created step with accumulator := acc } }

/-- The block an instruction leaves. -/
def chipAfter (i : Instr) (s : State) : Option ChipState :=
  match exec i s with
  | .next t => some t.chip
  | .fault _ => none
  | .refused _ => none

/-- Channel 0 after an instruction. -/
def ch0After (i : Instr) (s : State) : Option ChannelState := (chipAfter i s).map (·.ch0)

/-- Channel 1 after an instruction. -/
def ch1After (i : Instr) (s : State) : Option ChannelState := (chipAfter i s).map (·.ch1)

/-- What an instruction hands back. -/
def resultAfter (i : Instr) (s : State) : Option Result :=
  match exec i s with
  | .next t => some t.result
  | .fault _ => none
  | .refused _ => none

/-! ### Section 3.1: `NEW` -/

theorem test_new_step_182 : (chipAfter (.new 31400 44100) (withResampler 512 512)).map
    (fun k => (k.accumulator, k.accumulatorStep)) = some (0, 182) := by decide
theorem test_new_invalid_d : resultAfter (.new 31400 122) State.reset =
    some .invalidConfiguration := by decide
/-- The largest and the smallest valid step, and their invalid neighbours. -/
theorem test_new_boundaries :
    validStep 65535 256 = some 65535 ∧ validStep 65536 256 = none ∧ validStep 1 256 = some 1 ∧
    validStep 1 257 = none := by decide

/-! ### Section 3.2: the register writes -/

/-- Divisor 0: the counter is cleared at once and the level forced. -/
theorem test_wrAudc0_mode_zero : ch0After (.wrAudc0 0x00) (withCh0 ⟨4, 3, 80, 0, 2, 4, 0, 0, 0⟩) =
    some ⟨0, 3, 80, 80, 0, 0, 0, 0, 0⟩ := by decide
/-- `3 * (3 + 1)`, the counter kept. -/
theorem test_wrAudc0_div3 : ch0After (.wrAudc0 0x0C) (withCh0 ⟨4, 3, 80, 80, 2, 4, 0, 0, 0⟩) =
    some ⟨12, 3, 80, 80, 2, 12, 0, 0, 0⟩ := by decide
/-- The first configuration loads the counter. -/
theorem test_wrAudc1 : ch1After (.wrAudc1 0x0E) State.reset =
    some ⟨14, 0, 0, 0, 3, 3, 0, 0, 0⟩ := by decide
/-- Lazy reload: the counter keeps 2, above the new 1. -/
theorem test_wrAudf0_lazy : ch0After (.wrAudf0 0x00) (withCh0 ⟨4, 3, 80, 80, 2, 4, 0, 0, 0⟩) =
    some ⟨4, 0, 80, 80, 2, 1, 0, 0, 0⟩ := by decide
/-- A counter at 1 is not bottomed out. -/
theorem test_wrAudf0_at_one : ch0After (.wrAudf0 0x00) (withCh0 ⟨4, 3, 80, 80, 1, 4, 0, 0, 0⟩) =
    some ⟨4, 0, 80, 80, 1, 1, 0, 0, 0⟩ := by decide
/-- The largest divisor, 96. -/
theorem test_wrAudf1 : ch1After (.wrAudf1 0x1F) (withCh1 ⟨14, 0, 0, 0, 3, 3, 0, 0, 0⟩) =
    some ⟨14, 31, 0, 0, 3, 96, 0, 0, 0⟩ := by decide
/-- A non-zero mode: the level keeps the old volume. -/
theorem test_wrAudv0_latched : ch0After (.wrAudv0 0x00) (withCh0 ⟨4, 3, 80, 80, 2, 4, 0, 0, 0⟩) =
    some ⟨4, 3, 0, 80, 2, 4, 0, 0, 0⟩ := by decide
/-- Mode 0: the level follows (C1). -/
theorem test_wrAudv0_mode_zero : ch0After (.wrAudv0 0xF3) (withCh0 ⟨0, 3, 80, 80, 0, 0, 0, 0, 0⟩) =
    some ⟨0, 3, 24, 24, 0, 0, 0, 0, 0⟩ := by decide
theorem test_wrAudv1 : ch1After (.wrAudv1 0x07) (withCh1 ⟨14, 31, 0, 0, 3, 96, 0, 0, 0⟩) =
    some ⟨14, 31, 56, 0, 3, 96, 0, 0, 0⟩ := by decide
theorem test_wrIgnored : chipAfter (.wrIgnored 0x1B 0xFF) (withCh0 ⟨4, 3, 80, 80, 2, 4, 0, 0, 0⟩) =
    some (withCh0 ⟨4, 3, 80, 80, 2, 4, 0, 0, 0⟩).chip := by decide

/-! ### Section 3.3: one tick of a channel in each mode

Where a row needs table entries, they are hypotheses: the tables are open. -/

theorem test_mode0 : ch0After (.mode0 .ch0) (withCh0 ⟨0, 3, 80, 80, 0, 0, 5, 7, 9⟩) =
    some ⟨0, 3, 80, 80, 0, 0, 5, 7, 9⟩ := by decide
/-- Both positions wrap; `POLY4_BITS[0]` is 1. -/
theorem test_mode1_wraps : ch0After (.mode1 .ch0) (withCh0 ⟨1, 0, 120, 0, 1, 1, 14, 30, 0⟩) =
    some ⟨1, 0, 120, 120, 1, 1, 0, 0, 0⟩ := by decide
theorem test_mode1_poly4 : ch0After (.mode1 .ch0) (withCh0 ⟨1, 0, 120, 120, 1, 1, 4, 30, 0⟩) =
    some ⟨1, 0, 120, 120, 1, 1, 5, 0, 0⟩ := by decide
/-- A stale level is on, so the toggle turns it off (D7). -/
theorem test_mode4_stale : ch0After (.mode4 .ch0) (withCh0 ⟨4, 3, 80, 24, 1, 4, 0, 7, 0⟩) =
    some ⟨4, 3, 80, 0, 4, 4, 0, 8, 0⟩ := by decide
/-- A counter above the reload value still just decrements. -/
theorem test_mode4_decrement : ch0After (.mode4 .ch0) (withCh0 ⟨4, 0, 80, 80, 5, 1, 0, 0, 0⟩) =
    some ⟨4, 0, 80, 80, 4, 1, 0, 0, 0⟩ := by decide
/-- R115, as `MODE_4`. -/
theorem test_mode5 : ch1After (.mode5 .ch1) (withCh1 ⟨5, 3, 80, 0, 1, 4, 0, 7, 0⟩) =
    some ⟨5, 3, 80, 80, 4, 4, 0, 8, 0⟩ := by decide
theorem test_mode12 : ch0After (.mode12 .ch0) (withCh0 ⟨12, 0, 120, 120, 1, 3, 0, 0, 0⟩) =
    some ⟨12, 0, 120, 0, 3, 3, 0, 1, 0⟩ := by decide
/-- R123, as `MODE_12`. -/
theorem test_mode13 : ch0After (.mode13 .ch0) (withCh0 ⟨13, 0, 120, 0, 1, 3, 0, 0, 0⟩) =
    some ⟨13, 0, 120, 120, 3, 3, 0, 1, 0⟩ := by decide

theorem test_mode2_pass (h : div31Bit 12 = true) :
    ch0After (.mode2 .ch0) (withCh0 ⟨2, 0, 120, 0, 1, 1, 3, 11, 0⟩) =
      some ⟨2, 0, 120, 120, 1, 1, 4, 12, 0⟩ := by
  show some (if div31Bit 12 then _ else _) = _
  rw [h]; rfl
theorem test_mode2_blocked (h : div31Bit 13 = false) :
    ch0After (.mode2 .ch0) (withCh0 ⟨2, 0, 120, 0, 1, 1, 3, 12, 0⟩) =
      some ⟨2, 0, 120, 0, 1, 1, 3, 13, 0⟩ := by
  show some (if div31Bit 13 then _ else _) = _
  rw [h]; rfl
theorem test_mode3_pass (h : poly5Bit 2 = true) :
    ch0After (.mode3 .ch0) (withCh0 ⟨3, 0, 120, 0, 1, 1, 3, 1, 0⟩) =
      some ⟨3, 0, 120, 120, 1, 1, 4, 2, 0⟩ := by
  show some (if poly5Bit 2 then _ else _) = _
  rw [h]; rfl
theorem test_mode6_pass (h : div31Bit 30 = true) :
    ch0After (.mode6 .ch0) (withCh0 ⟨6, 0, 120, 120, 1, 1, 0, 29, 0⟩) =
      some ⟨6, 0, 120, 0, 1, 1, 0, 30, 0⟩ := by
  show some (if div31Bit 30 then _ else _) = _
  rw [h]; rfl
theorem test_mode7_blocked (h : poly5Bit 0 = false) :
    ch0After (.mode7 .ch0) (withCh0 ⟨7, 0, 120, 0, 1, 1, 0, 30, 0⟩) =
      some ⟨7, 0, 120, 0, 1, 1, 0, 0, 0⟩ := by
  show some (if poly5Bit 0 then _ else _) = _
  rw [h]; rfl
theorem test_mode8_wraps (h : poly9Bit 0 = true) :
    ch0After (.mode8 .ch0) (withCh0 ⟨8, 0, 120, 0, 1, 1, 0, 3, 510⟩) =
      some ⟨8, 0, 120, 120, 1, 1, 0, 4, 0⟩ := by
  show some (ChannelState.mk 8 0 120 (levelOf (poly9Bit 0) 120) 1 1 0 4 0) = _
  rw [h]; rfl
theorem test_mode9_off (h : poly5Bit 3 = false) :
    ch0After (.mode9 .ch0) (withCh0 ⟨9, 0, 120, 120, 1, 1, 0, 2, 0⟩) =
      some ⟨9, 0, 120, 0, 1, 1, 0, 3, 0⟩ := by
  show some (ChannelState.mk 9 0 120 (levelOf (poly5Bit 3) 120) 1 1 0 3 0) = _
  rw [h]; rfl
/-- The gate from one table, the level from the other. -/
theorem test_mode10_pass (h : div31Bit 12 = true) (h' : poly5Bit 12 = true) :
    ch0After (.mode10 .ch0) (withCh0 ⟨10, 0, 120, 0, 1, 1, 0, 11, 0⟩) =
      some ⟨10, 0, 120, 120, 1, 1, 0, 12, 0⟩ := by
  show some (if div31Bit 12 then
    ChannelState.mk 10 0 120 (levelOf (poly5Bit 12) 120) 1 1 0 12 0 else _) = _
  rw [h, h']; rfl
theorem test_mode11_stays_on (h : poly5Bit 0 = false) :
    ch0After (.mode11 .ch0) (withCh0 ⟨11, 0, 120, 120, 1, 1, 0, 30, 0⟩) =
      some ⟨11, 0, 120, 120, 1, 1, 0, 0, 0⟩ := by
  show some (if poly5Bit 0 then _ else _) = _
  rw [h]; rfl
theorem test_mode14_pass (h : div31Bit 12 = true) :
    ch0After (.mode14 .ch0) (withCh0 ⟨14, 0, 120, 0, 1, 3, 0, 11, 0⟩) =
      some ⟨14, 0, 120, 120, 3, 3, 0, 12, 0⟩ := by
  show some (if div31Bit 12 then _ else _) = _
  rw [h]; rfl
theorem test_mode15_pass (h : poly5Bit 2 = true) :
    ch0After (.mode15 .ch0) (withCh0 ⟨15, 2, 120, 0, 1, 9, 0, 1, 0⟩) =
      some ⟨15, 2, 120, 120, 9, 9, 0, 2, 0⟩ := by
  show some (if poly5Bit 2 then _ else _) = _
  rw [h]; rfl

/-! ### E1, E2, sections 3.5 and 3.6: sampling -/

/-- E1: 120 from channel 0 and 0 from channel 1. -/
theorem test_getSample_e1 :
    resultAfter .getSample (withCh0 ⟨0, 0, 120, 120, 0, 0, 0, 0, 0⟩) = some (.sample 120) := by decide
/-- Section 3.5: from 512 with step 512 two ticks, then 512; 65790 takes 256 ticks. -/
theorem test_getSample_ticks : (chipAfter .getSample (withResampler 512 512)).map (·.accumulator) =
    some 512 ∧ tickCount 512 = 2 ∧ tickCount 65790 = 256 := by decide
/-- E2: `FILL 3` gives 120, 0, 120. -/
theorem test_fillBuffer_e2 : resultAfter (.fillBuffer 3) (withCh0 ⟨1, 0, 120, 0, 1, 1, 0, 0, 0⟩) =
    some (.buffer [120, 0, 120]) := by decide
/-- D20: no slot, no tick. -/
theorem test_fillBuffer_empty : chipAfter (.fillBuffer 0) (withResampler 512 512) =
    some (withResampler 512 512).chip := by decide
/-- Section 3.6: the largest sample, and the sum of two levels. -/
theorem test_mix : mix { State.reset.chip with
      ch0 := ⟨0, 0, 120, 120, 0, 0, 0, 0, 0⟩, ch1 := ⟨0, 0, 120, 120, 0, 0, 0, 0, 0⟩ } = 240 ∧
    mix { State.reset.chip with
      ch0 := ⟨0, 0, 8, 8, 0, 0, 0, 0, 0⟩, ch1 := ⟨0, 0, 16, 16, 0, 0, 0, 0, 0⟩ } = 24 := by decide
/-- R8: idle leaves the block. -/
theorem test_idle : chipAfter .idle (withResampler 512 512) = some (withResampler 512 512).chip := by
  decide
/-- The next step after placing the word of row `WR_AUDV0` with data `0x0F` runs it (E1). -/
theorem test_withFetchWord : ∃ t, step (State.reset.withFetchWord 24 0x0F0019) = .next t ∧
    t.chip.ch0.outputLevel = 120 := ⟨_, rfl, by decide⟩
/-- Placing `MODE_4` arms channel 0, and the next step is a tick in that mode. -/
theorem test_withFetchWord_mode : ∃ t, step (State.reset.withFetchWord 8 0b0100) = .next t ∧
    t.chip.ch0.controlMode = 4 ∧ t.chip.ch0.poly5Index = 1 := ⟨_, rfl, by decide, by decide⟩
/-- R60: an overlapping command is refused by name. -/
theorem test_step_refuses_overlap : step (State.reset.issue { cmd := 0b101#3 }) =
    .refused (.notATransaction 0b101) := rfl

/-! ## Witnesses for the hypotheses of the statements -/

/-- A channel that meets the channel invariant with its divider running: mode 4, divisor 4. -/
def running : ChannelState := ⟨4, 3, 80, 80, 2, 4, 0, 7, 0⟩

theorem running_inv : ChannelInv running := by constructor <;> decide
theorem zero_inv : ChannelInv ChannelState.zero := by constructor <;> decide

theorem running_state_inv : (withCh0 running).Inv :=
  ⟨fun c => by cases c; exacts [running_inv, zero_inv], by
    constructor
    · decide
    · exact fun _ => .inl rfl
    · exact fun h => absurd h (by decide)⟩

theorem wit_CommandPortDecodes :
    ({ cmd := 0b000 } : Frame).cmd = 0b000#3 ∧ ({ cmd := 0b001 } : Frame).cmd = 0b001#3 ∧
    ({ cmd := 0b010 } : Frame).cmd = 0b010#3 ∧ ({ cmd := 0b100 } : Frame).cmd = 0b100#3 ∧
    ∀ c ∈ ([0b011, 0b101, 0b110, 0b111] : List Cmd),
      c ≠ 0b000#3 ∧ c ≠ 0b001#3 ∧ c ≠ 0b010#3 ∧ c ≠ 0b100#3 := by decide
theorem wit_SixAddressesDecodeInFull :
    (0x14 : Addr).toNat < 0x15 ∧ 0x1A < (0x1B : Addr).toNat ∧ 0x1A < (0x0115 : Addr).toNat := by
  decide
theorem wit_DecodeEncodeRoundTrip :
    (Instr.wrIgnored 0x1B 0xFF).wellFormed = true ∧
    (∀ n, Instr.wrIgnored 0x1B 0xFF ≠ .fillBuffer n) ∧
    (Instr.new (-1) 5).wellFormed = true ∧ (∀ n, Instr.new (-1) 5 ≠ .fillBuffer n) :=
  ⟨by decide, fun _ => by simp, by decide, fun _ => by simp⟩
theorem wit_DecodedSourceIsTheEncoding :
    decode (.port { cmd := 0b001, addr := 0x15, data := 0xF1, nativeClockHz := 7 }) =
      .ok (.wrAudc0 0xF1) ∧ (0b001#3 : Cmd) = cmdWr ∧
    decode (.port { cmd := 0b100, addr := 0x15, nativeClockHz := 7 }) = .ok (.new 7 0) ∧
    (0b100#3 : Cmd) = cmdNew ∧ decode (.modeRegister .ch1 0b1111) = .ok (.mode15 .ch1) := by decide
theorem wit_StepRunsDecodedTransaction :
    (State.reset.issue getSampleFrame).pending = [getSampleFrame] ∧
    decode (.port getSampleFrame) = .ok .getSample ∧ State.reset.pending = [] := by decide
theorem wit_OnlyNewRaisesInvalidConfiguration :
    ∃ t, exec (.new 31400 100) State.reset = .next t ∧ State.reset.result ≠ .invalidConfiguration ∧
      t.result = .invalidConfiguration := ⟨_, rfl, by decide, rfl⟩
theorem wit_IgnoredWriteChangesNothing :
    decodeAddr 0x14 = none ∧ decodeAddr 0x1B = none ∧ decodeAddr 0xFFFF = none := by decide
theorem wit_WriteFrame : ∃ t,
    decode (.port (wrFrame 0x17 0x00)) = .ok (.wrAudf0 0x00) ∧
    exec (.wrAudf0 0x00) (withCh0 running) = .next t ∧
    (∀ k, (0x17 : Addr) ≠ regAddr .ch1 k) ∧ (0x17 : Addr) ≠ regAddr .ch0 .control ∧
    (0x15 : Addr) ≠ regAddr .ch0 .frequency ∧ (0x17 : Addr) ≠ regAddr .ch0 .volume :=
  ⟨_, by decide, rfl, fun k => by cases k <;> decide, by decide, by decide, by decide⟩
theorem wit_RepeatedWriteIsIdempotent : ∃ t,
    decode (.port (wrFrame 0x15 0x0C)) = .ok (.wrAudc0 0x0C) ∧
    exec (.wrAudc0 0x0C) (withCh0 running) = .next t := ⟨_, by decide, rfl⟩
theorem wit_WriteOrder : ∃ t u t' u', ChannelId.ch0 ≠ .ch1 ∧
    decode (.port (wrFrame (regAddr .ch0 .control) 0x0C)) = .ok (.wrAudc0 0x0C) ∧
    decode (.port (wrFrame (regAddr .ch1 .volume) 0x07)) = .ok (.wrAudv1 0x07) ∧
    exec (.wrAudc0 0x0C) (withCh0 running) = .next t ∧ exec (.wrAudv1 0x07) t = .next u ∧
    exec (.wrAudv1 0x07) (withCh0 running) = .next t' ∧ exec (.wrAudc0 0x0C) t' = .next u' :=
  ⟨_, _, _, _, by decide, by decide, by decide, rfl, rfl, rfl, rfl⟩
theorem wit_RecomputeReadingsAgree : ChannelInv running ∧ ChannelInv ChannelState.zero :=
  ⟨running_inv, zero_inv⟩
/-- The frequency clause with the counter in the middle and at 1, and the three clauses of a control
write: running, at 0, and stopped by mode 0. -/
theorem wit_LazyReload : ∃ t u v w x,
    exec (.wrAudf0 0x00) (withCh0 running) = .next t ∧
    decode (.port (wrFrame (regAddr .ch0 .frequency) 0x00)) = .ok (.wrAudf0 0x00) ∧
    running.controlMode ≠ 0 ∧ running.dividerCounter ≠ 0 ∧
    exec (.wrAudf0 0x00) (withCh0 { running with dividerCounter := 1 }) = .next u ∧
    ({ running with dividerCounter := 1 } : ChannelState).dividerCounter ≠ 0 ∧
    exec (.wrAudc0 0x0C) (withCh0 running) = .next v ∧
    decode (.port (wrFrame (regAddr .ch0 .control) 0x0C)) = .ok (.wrAudc0 0x0C) ∧
    controlField 0x0C ≠ 0 ∧
    exec (.wrAudc0 0x0C) State.reset = .next w ∧ State.reset.chip.ch0.dividerCounter = 0 ∧
    State.reset.chip.ch0.dividerMax = 0 ∧
    exec (.wrAudc0 0x10) (withCh0 running) = .next x ∧
    decode (.port (wrFrame (regAddr .ch0 .control) 0x10)) = .ok (.wrAudc0 0x10) ∧
    controlField 0x10 = 0 ∧ running.dividerMax ≠ 0 :=
  ⟨_, _, _, _, _, rfl, by decide, by decide, by decide, rfl, by decide, rfl, by decide, by decide,
    rfl, by decide, by decide, rfl, by decide, by decide, by decide⟩
theorem wit_UnderflowEvent : ChannelInv { running with dividerCounter := 1 } ∧
    ({ running with dividerCounter := 1 } : ChannelState).dividerCounter = 1 :=
  ⟨by constructor <;> decide, by decide⟩
/-- One mode for each of the four clauses, and the modes where the tests meet. -/
theorem wit_ActionDispatch :
    pureBit 4 = true ∧ pureBit 12 = true ∧
    (pureBit 8 = false ∧ selBit 8 = true ∧ (8 : Mode) = modePoly9) ∧
    (pureBit 9 = false ∧ selBit 9 = true ∧ (9 : Mode) ≠ modePoly9) ∧
    (pureBit 3 = false ∧ selBit 3 = false) := by decide
theorem wit_UnderflowEveryDivisorTicks :
    (ChannelState.mk 12 31 120 0 96 96 0 0 0).dividerMax ≠ 0 ∧
    (ChannelState.mk 12 31 120 0 96 96 0 0 0).dividerCounter =
      (ChannelState.mk 12 31 120 0 96 96 0 0 0).dividerMax ∧
    (ChannelState.mk 1 0 120 0 1 1 0 0 0).dividerCounter =
      (ChannelState.mk 1 0 120 0 1 1 0 0 0).dividerMax := by decide
theorem wit_ModesAreTheBitTests :
    decode (.modeRegister .ch0 (withCh0 running).chip.ch0.controlMode) = .ok (.mode4 .ch0) := by
  decide
theorem wit_ModeZeroResult : (State.reset.chip.ch .ch1).dividerCounter = 0 := by decide
theorem wit_ModeFrame : ∃ t u,
    decode (.modeRegister .ch0 0b0100) = .ok (.mode4 .ch0) ∧
    exec (.mode4 .ch0) (withCh0 running) = .next t ∧ ChannelId.ch1 ≠ .ch0 ∧
    3 < (0b0100 : Mode).toNat ∧ (0b0100 : Mode) ≠ 0b1000 ∧ running.dividerCounter ≠ 1 ∧
    decode (.modeRegister .ch0 0b0011) = .ok (.mode3 .ch0) ∧ (0b0011 : Mode) ≠ 0b1000 ∧
    exec (.mode3 .ch0) (withCh0 running) = .next u :=
  ⟨_, _, by decide, rfl, by decide, by decide, by decide, by decide, by decide, by decide, rfl⟩
theorem wit_DivideByThreeModes :
    (4 ≤ (4 : Mode).toNat ∧ (4 : Mode).toNat < 8) ∧ (4 ≤ (7 : Mode).toNat ∧ (7 : Mode).toNat < 8) ∧
    decode (.modeRegister .ch1 7) = .ok (.mode7 .ch1) ∧
    decode (.modeRegister .ch1 (7 ||| 0b1000)) = .ok (.mode15 .ch1) := by decide
theorem wit_SequencesArePeriodic :
    (ChannelState.mk 1 0 120 0 1 1 14 30 0).controlMode = 1 ∧
    (ChannelState.mk 9 0 120 0 1 1 0 30 0).controlMode = 9 ∧
    (ChannelState.mk 8 0 120 0 1 1 0 30 510).controlMode = 8 ∧ 1 ≤ 1 := by decide
theorem wit_ModeElevenNeverTurnsOff :
    ((withCh0 ⟨11, 0, 120, 80, 1, 1, 0, 30, 0⟩).chip.ch .ch0).controlMode = 11 ∧
    ((withCh0 ⟨11, 0, 120, 80, 1, 1, 0, 30, 0⟩).chip.ch .ch0).volume ≠ 0 ∧
    ((withCh0 ⟨11, 0, 120, 80, 1, 1, 0, 30, 0⟩).chip.ch .ch0).outputLevel ≠ 0 := by decide
/-- With a sample, and with the one write the statement speaks of, pending. -/
theorem wit_SilentChannelStaysSilent : ∃ t u,
    step ((withCh0 running).issue getSampleFrame) = .next t ∧
    ((withCh0 running).chip.ch .ch1).volume = 0 ∧
    ((withCh0 running).chip.ch .ch1).outputLevel = 0 ∧ getSampleFrame.cmd ≠ cmdWr ∧
    step ((withCh0 running).issue (wrFrame addrAudv1 0xF0)) = .next u ∧
    (wrFrame addrAudv1 0xF0).addr = regAddr .ch1 .volume ∧ (0xF0 : Byte).toNat % 16 = 0 :=
  ⟨_, _, rfl, by decide, by decide, by decide, rfl, by decide, by decide⟩
/-- Section 3.5: 511 emits a sample on its first tick, 512 does not. -/
theorem wit_NativeTickResult :
    (withResampler 511 300).chip.accumulator - 256 < 256 ∧
    256 ≤ (withResampler 512 512).chip.accumulator - 256 := by decide
/-- The invariant with a running channel, and with the largest accumulator R145 allows. -/
theorem wit_TickCountBounds : (withCh0 running).Inv ∧ (withResampler 65790 65535).Inv ∧
    (withResampler 0 256).chip.accumulator = 0 ∧
    (withResampler (-255) 1).Inv ∧ (withResampler (-255) 1).chip.accumulatorStep.toNat < 256 := by
  refine ⟨running_state_inv, ⟨fun c => by cases c <;> exact zero_inv, ?_⟩, rfl,
    ⟨fun c => by cases c <;> exact zero_inv, ?_⟩, by decide⟩
  · constructor
    · decide
    · exact fun _ => .inr (by decide)
    · exact fun h => absurd h (by decide)
  · constructor
    · decide
    · exact fun h => absurd h (by decide)
    · exact fun _ => ⟨by decide, -1, by decide⟩
theorem wit_SamplingFrame : ∃ t u, exec .getSample (withCh0 running) = .next t ∧
    exec (.fillBuffer 2) (withCh0 running) = .next u := ⟨_, _, rfl, rfl⟩
theorem wit_ChannelsDoNotInterfere : ∃ t t',
    (withCh0 running).chip.ch .ch1 = State.reset.chip.ch .ch1 ∧
    (withCh0 running).chip.accumulator = State.reset.chip.accumulator ∧
    (withCh0 running).chip.accumulatorStep = State.reset.chip.accumulatorStep ∧
    exec .getSample (withCh0 running) = .next t ∧ exec .getSample State.reset = .next t' :=
  ⟨_, _, by decide, by decide, by decide, rfl, rfl⟩
theorem wit_ModeZeroHoldsTheVolume : (withCh0 running).Inv ∧
    ((withCh0 running).chip.ch .ch1).controlMode = 0 := ⟨running_state_inv, by decide⟩
theorem wit_MixIsThePlainSum : Level.onScale 120 ∧ Level.onScale 0 := by decide
theorem wit_FillBufferIsItsPortSequence :
    ({ State.reset with pending := [getSampleFrame, getSampleFrame, wrFrame addrAudc0 1] } :
      State).pending = List.replicate 2 getSampleFrame ++ [wrFrame addrAudc0 1] := by decide
theorem wit_LongRunRate : ∃ u, exec (.fillBuffer 2) (withResampler 0 512) = .next u ∧
    (withResampler 0 512).chip.accumulator = 0 ∧
    256 ≤ (withResampler 0 512).chip.accumulatorStep.toNat ∧
    (withResampler 0 512).chip.accumulatorStep.toNat = 512 ∧ 2 ≤ 2 ∧
    256 ≤ (withResampler 0 256).chip.accumulatorStep.toNat :=
  ⟨_, rfl, by decide, by decide, by decide, by decide, by decide⟩
/-- Section 3.1: the smallest and the largest step. -/
theorem wit_NewCreatesAZeroState :
    ((1 : Int) ≤ 1 ∧ (1 : Int) ≤ 256 ∧ (1 : Int) ≤ 1 * 256 / 256 ∧ (1 * 256 / 256 : Int) ≤ 65535) ∧
    ((1 : Int) ≤ 65535 ∧ (1 : Int) ≤ 256 ∧ (1 : Int) ≤ 65535 * 256 / 256 ∧
      (65535 * 256 / 256 : Int) ≤ 65535) := by decide
/-- Section 3.1: one pair for each cause. -/
theorem wit_NewRejectsInvalidRates :
    (0 : Int) ≤ 0 ∧ (-1 : Int) ≤ 0 ∧ (1 * 256 / 257 : Int) < 1 ∧
    (65535 : Int) < 65536 * 256 / 256 := by decide
theorem wit_ValidRates : validStep 31400 44100 = some 182 ∧ validStep 1 256 = some 1 ∧
    ((1 : Int) ≤ 1 ∧ (1 : Int) ≤ 256 ∧ (256 : Int) ≤ 256 * 1 ∧ (1 : Int) < 256 * 256) := by decide
theorem wit_SilentAfterReset : (withResampler 512 512).chip.ch0 = ChannelState.zero ∧
    (withResampler 512 512).chip.ch1 = ChannelState.zero := by decide
/-- A sample, and a write that keeps the counter above its new reload value. -/
theorem wit_StepKeepsTheInvariant : ∃ t u,
    (withCh0 running).Inv ∧ ((withCh0 running).issue getSampleFrame).Inv ∧
    step ((withCh0 running).issue getSampleFrame) = .next t ∧
    ((withCh0 running).issue (wrFrame addrAudf0 0)).Inv ∧
    step ((withCh0 running).issue (wrFrame addrAudf0 0)) = .next u :=
  ⟨_, _, running_state_inv, ⟨running_state_inv.channel, running_state_inv.resampler⟩, rfl,
    ⟨running_state_inv.channel, running_state_inv.resampler⟩, rfl⟩
/-- A state after a write, from reset. -/
theorem wit_ReachableStatesMeetTheInvariant : ∃ t,
    step (State.reset.issue (wrFrame addrAudc0 0x04)) = .next t ∧ Reachable t :=
  ⟨_, rfl, .stepped (.issue (wrFrame addrAudc0 0x04) .reset) rfl⟩
theorem wit_RegistersChangeByTheirOwnWritesOnly : ∃ t,
    exec (.wrAudc0 0x0C) (withCh0 running) = .next t ∧
    t.chip.ch0.controlMode ≠ (withCh0 running).chip.ch0.controlMode :=
  ⟨_, rfl, by decide⟩
theorem wit_TimePassesOnlyInGetSample : ∃ t, decode (.port (wrFrame 0x1B 0xFF)) =
    .ok (.wrIgnored 0x1B 0xFF) ∧ exec (.wrIgnored 0x1B 0xFF) (withCh0 running) = .next t :=
  ⟨_, by decide, rfl⟩
theorem wit_AssemblerLinesExpand : decodeAddr 0x1B = none := by decide

end Sys2Proof.Tests
end

section
/-! Operand assembly as numbers: the data fields (R63, R64, R65) and the effective divisor (R67). -/

namespace Sys2Proof.Machine

/-! ## Data fields -/

theorem toNat_lowNibble (d : Byte) : (d &&& 0x0F).toNat = d.toNat % 16 :=
  Nat.and_two_pow_sub_one_eq_mod d.toNat 4

theorem toNat_lowFiveBits (d : Byte) : (d &&& 0x1F).toNat = d.toNat % 32 :=
  Nat.and_two_pow_sub_one_eq_mod d.toNat 5

@[simp] theorem controlField_toNat (d : Byte) : (controlField d).toNat = d.toNat % 16 := by
  rw [controlField, BitVec.toNat_setWidth, toNat_lowNibble]
  exact Nat.mod_mod _ _

@[simp] theorem frequencyField_toNat (d : Byte) : (frequencyField d).toNat = d.toNat % 32 := by
  rw [frequencyField, BitVec.toNat_setWidth, toNat_lowFiveBits]
  exact Nat.mod_mod _ _

/-- At most `8 * 15 = 120`, so neither the shift in eight bits nor the cut to seven loses a bit. -/
@[simp] theorem volumeField_toNat (d : Byte) : (volumeField d).toNat = 8 * (d.toNat % 16) := by
  rw [volumeField, BitVec.toNat_setWidth, BitVec.toNat_shiftLeft, toNat_lowNibble,
    Nat.shiftLeft_eq, volShift]
  omega

/-- Settles O12: each field is the data byte under its mask, read as a number. -/
theorem dataFieldsAreMasked : Obligations.DataFieldsAreMasked :=
  fun d => ⟨controlField_toNat d, frequencyField_toNat d, volumeField_toNat d⟩

/-! ## The effective divisor -/

@[simp] theorem effDiv_mode_zero (f : Freq) : effDiv 0 f = 0 := rfl

theorem effDiv_of_div3 {m : Mode} (h0 : m ≠ 0) (h3 : m &&& div3Mask = div3Mask) (f : Freq) :
    effDiv m f = (f.setWidth 8 + 1) * 3 := by
  rw [effDiv, if_neg h0, if_pos h3]

theorem effDiv_of_not_div3 {m : Mode} (h0 : m ≠ 0) (h3 : m &&& div3Mask ≠ div3Mask) (f : Freq) :
    effDiv m f = f.setWidth 8 + 1 := by
  rw [effDiv, if_neg h0, if_neg h3]

/-- The raw divisor is at most 31, so its successor fits in eight bits. -/
theorem toNat_freq_succ (f : Freq) : (f.setWidth 8 + 1 : Divider).toNat = f.toNat + 1 := by
  bv_omega

/-- At most `3 * 32 = 96`, so the product fits in eight bits. -/
theorem toNat_freq_succ_mul_three (f : Freq) :
    ((f.setWidth 8 + 1) * 3 : Divider).toNat = 3 * (f.toNat + 1) := by
  have hf : f.toNat < 32 := f.isLt
  rw [BitVec.toNat_mul, toNat_freq_succ, show (3 : Divider).toNat = 3 from rfl]
  omega

/-- Settles O11, by the three cases of R67. -/
theorem effectiveDivisorValue : Obligations.EffectiveDivisorValue := by
  intro m f
  split_ifs with h0 h3
  · rw [h0, effDiv_mode_zero]; rfl
  · rw [effDiv_of_div3 h0 h3, toNat_freq_succ_mul_three]
  · rw [effDiv_of_not_div3 h0 h3, toNat_freq_succ]

end Sys2Proof.Machine
end

section
/-! The control and frequency writes and the write that maps to no register (R81 to R84, R87), each
as one exact next state. -/

namespace Sys2Proof.Machine

/-! ## A register write in one piece -/

/-- The seven operations of `WR` together are the dispatcher of R88 on the decoded address. -/
theorem exec_decodeWr (a : Addr) (d : Byte) (s : State) :
    exec (decodeWr a d) s = .next (writeRegister a d s) := by
  unfold decodeWr writeRegister
  rcases decodeAddr a with _ | ⟨c, k⟩
  · rfl
  · cases c <;> cases k <;> rfl

@[simp] theorem writeRegister_control (c : ChannelId) (d : Byte) (s : State) :
    writeRegister (regAddr c .control) d s = s.writeCh c (writeControl d) := by
  rw [writeRegister, decodeAddr_regAddr]

@[simp] theorem writeRegister_frequency (c : ChannelId) (d : Byte) (s : State) :
    writeRegister (regAddr c .frequency) d s = s.writeCh c (writeFrequency d) := by
  rw [writeRegister, decodeAddr_regAddr]

/-- The model's `Recompute` is the one the statements write out (R80). -/
theorem recompute_eq_recomputed (x : ChannelState) : recompute x = Stated.recomputed x :=
  recompute_eq x

theorem writeControl_eq_recomputed (d : Byte) (x : ChannelState) :
    writeControl d x = Stated.recomputed { x with controlMode := (d &&& 0x0F).setWidth 4 } :=
  recompute_eq_recomputed _

theorem writeFrequency_eq_recomputed (d : Byte) (x : ChannelState) :
    writeFrequency d x = Stated.recomputed { x with frequencyDivisor := (d &&& 0x1F).setWidth 5 } :=
  recompute_eq_recomputed _

/-! ## Writes to a mapped register -/

/-- The next state of a control write, for either channel. -/
theorem exec_decodeWr_control (c : ChannelId) (d : Byte) (s : State) :
    exec (decodeWr (regAddr c .control) d) s = .next { s with
      chip := s.chip.setCh c
        (Stated.recomputed { s.chip.ch c with controlMode := (d &&& 0x0F).setWidth 4 })
      result := .nothing } := by
  rw [exec_decodeWr, writeRegister_control, State.writeCh, ChipState.mapCh,
    writeControl_eq_recomputed]

/-- The next state of a frequency write, for either channel. -/
theorem exec_decodeWr_frequency (c : ChannelId) (d : Byte) (s : State) :
    exec (decodeWr (regAddr c .frequency) d) s = .next { s with
      chip := s.chip.setCh c
        (Stated.recomputed { s.chip.ch c with frequencyDivisor := (d &&& 0x1F).setWidth 5 })
      result := .nothing } := by
  rw [exec_decodeWr, writeRegister_frequency, State.writeCh, ChipState.mapCh,
    writeFrequency_eq_recomputed]

/-- Settles O13: the control write of either channel, at that channel's address. -/
theorem writeControlResult : Obligations.WriteControlResult :=
  fun d s => ⟨decode_wrFrame addrAudc0 d, exec_decodeWr_control .ch0 d s,
    decode_wrFrame addrAudc1 d, exec_decodeWr_control .ch1 d s⟩

/-- Settles O14: the frequency write of either channel, at that channel's address. -/
theorem writeFrequencyResult : Obligations.WriteFrequencyResult :=
  fun d s => ⟨decode_wrFrame addrAudf0 d, exec_decodeWr_frequency .ch0 d s,
    decode_wrFrame addrAudf1 d, exec_decodeWr_frequency .ch1 d s⟩

/-! ## A write to no register -/

theorem exec_wrIgnored (a : Addr) (d : Byte) (s : State) :
    exec (.wrIgnored a d) s = .next (s.withResult .nothing) := rfl

/-- Settles O16: `WR_IGNORED` only clears the result handed back, and it is what a write to an
unmapped address decodes to. -/
theorem ignoredWriteChangesNothing : Obligations.IgnoredWriteChangesNothing := by
  intro a d s
  refine ⟨exec_wrIgnored a d s, fun hunmapped => ?_⟩
  rw [decode_wrFrame, decodeWr_unmapped hunmapped]

end Sys2Proof.Machine
end

section
/-! The underflow event, the gate and the dispatch of the waveform generator (R102 to R104,
R106 to R109), each case stated once. -/

namespace Sys2Proof.Machine

/-! ## The underflow event -/

/-- An event with any gate and any action is the gated event the statements write out. -/
theorem eventOf_eq_gated (gate : Fin 31 → Bool) (act : ChannelState → ChannelState)
    (x : ChannelState) : eventOf gate act x = Stated.gated gate x (act (Stated.reloaded x)) := rfl

theorem underflow_eq_gated (x : ChannelState) :
    underflow x = Stated.gated (gatePasses x.controlMode) x (action (Stated.reloaded x)) :=
  eventOf_eq_gated _ _ x

/-- The gate opens or closes the action only: the counter is reloaded either way. -/
@[simp] theorem underflow_dividerCounter (x : ChannelState) :
    (underflow x).dividerCounter = x.dividerMax := by
  rw [underflow]
  obtain ⟨-, hpass⟩ | ⟨-, hstop⟩ := eventOf_cases (gatePasses x.controlMode) action x
  · rw [hpass, (action_spec (reload x)).dividerCounter, reload_eq]
  · rw [hstop, reload_eq]

/-- I5: a channel that is clocked has a non-zero value to reload. -/
theorem ChannelInv.dividerMax_ne_zero {x : ChannelState} (h : ChannelInv x)
    (hclocked : x.dividerCounter ≠ 0) : x.dividerMax ≠ 0 :=
  mt h.stopped.mpr hclocked

/-- Settles O23: the reload and the advance come first, and the value reloaded is not 0 where the
invariant holds. -/
theorem underflowEvent : Obligations.UnderflowEvent := by
  refine ⟨underflow_eq_gated, fun x hinv hone => ?_⟩
  have hclocked : x.dividerCounter ≠ 0 := by rw [hone]; decide
  rw [underflow_dividerCounter]
  exact hinv.dividerMax_ne_zero hclocked

/-! ## The gate -/

theorem gatePasses_ungated {m : Mode} (hgate : gateBit m = false) (p5 : Fin 31) :
    gatePasses m p5 = true := by
  simp [gatePasses, hgate]

theorem gatePasses_div31 {m : Mode} (hgate : gateBit m = true) (hinv : invBit m = false)
    (p5 : Fin 31) : gatePasses m p5 = div31Bit p5 := by
  simp [gatePasses, gateDiv31, hgate, hinv]

theorem gatePasses_poly5 {m : Mode} (hgate : gateBit m = true) (hinv : invBit m = true)
    (p5 : Fin 31) : gatePasses m p5 = poly5Bit p5 := by
  simp [gatePasses, gatePoly5, hgate, hinv]

/-- Settles O24: `GATE` and `INV` select one of three gates. -/
theorem gateCondition : Obligations.GateCondition := by
  intro m p5
  cases hgate : gateBit m with
  | false => simp [gatePasses_ungated hgate]
  | true =>
    cases hinv : invBit m with
    | false => simp [gatePasses_div31 hgate hinv]
    | true => simp [gatePasses_poly5 hgate hinv]

/-! ## The action -/

theorem action_pure {x : ChannelState} (hpure : pureBit x.controlMode = true) :
    action x = toggle x := by
  rw [action, if_pos hpure]

theorem action_modePoly9 {x : ChannelState} (hmode : x.controlMode = modePoly9) :
    action x = poly9 x := by
  have hpure : pureBit modePoly9 = false := by decide
  have hsel : selBit modePoly9 = true := by decide
  simp [action, hmode, hpure, hsel]

theorem action_poly5Level {x : ChannelState} (hpure : pureBit x.controlMode = false)
    (hsel : selBit x.controlMode = true) (hmode : x.controlMode ≠ modePoly9) :
    action x = poly5Level x := by
  simp [action, hpure, hsel, hmode]

theorem action_poly4 {x : ChannelState} (hpure : pureBit x.controlMode = false)
    (hsel : selBit x.controlMode = false) : action x = poly4 x := by
  simp [action, hpure, hsel]

/-- Settles O25: the four branches of the dispatch; what a table action does is its definition. -/
theorem actionDispatch : Obligations.ActionDispatch :=
  fun _ => ⟨action_pure, fun _ _ hmode => action_modePoly9 hmode, action_poly5Level, action_poly4⟩

end Sys2Proof.Machine
end

section
/-! The decoder against the encoder (R60 to R62, R68) and the assembler's lines (R71, R72). -/

namespace Sys2Proof

/-! ## The encoding of what the decoder answers -/

/-- Every `WR` operation is encoded by its own frame, the address included. -/
theorem encode_decodeWr (a : Addr) (d : Byte) :
    encode (decodeWr a d) = [.port (wrFrame a d)] := by
  cases haddr : decodeAddr a with
  | none => rw [decodeWr_unmapped haddr]; rfl
  | some target =>
    obtain ⟨c, k⟩ := target
    obtain rfl := decodeAddr_eq_some.mp haddr
    cases c <;> cases k <;> rfl

theorem wellFormed_decodeWr (a : Addr) (d : Byte) : (decodeWr a d).wellFormed = true := by
  cases haddr : decodeAddr a with
  | none => rw [decodeWr_unmapped haddr]; exact (wellFormed_wrIgnored a d).mpr haddr
  | some target =>
    obtain ⟨c, k⟩ := target
    obtain rfl := decodeAddr_eq_some.mp haddr
    cases c <;> cases k <;> rfl

theorem encode_decodeMode (c : ChannelId) (m : Mode) :
    encode (decodeMode c m) = [.modeRegister c m] := by
  revert m
  cases c <;> decide

theorem wellFormed_decodeMode (c : ChannelId) (m : Mode) :
    (decodeMode c m).wellFormed = true := by
  revert m
  cases c <;> decide

/-- Settles O4: one case a constructor; only the unmapped address of `WR_IGNORED` needs its
well-formedness, and only `FILLBUFFER` has another number of sources than one. -/
theorem decodeEncodeRoundTrip : Obligations.DecodeEncodeRoundTrip := by
  refine ⟨fun i hwf hfill => ?_, fun n => List.map_replicate⟩
  cases i with
  | fillBuffer n => exact absurd rfl (hfill n)
  | wrIgnored a d =>
    have hunmapped := (wellFormed_wrIgnored a d).mp hwf
    rw [encode, List.map_singleton, decode_wrFrame, decodeWr_unmapped hunmapped]
  | _ => rfl

/-- Settles O5, by the command table for a frame and nibble by nibble for a mode. -/
theorem decodedSourceIsTheEncoding : Obligations.DecodedSourceIsTheEncoding := by
  constructor
  · intro f i hdec
    change decodeFrame f = .ok i at hdec
    obtain ⟨hcmd, h⟩ | ⟨hcmd, h⟩ | ⟨hcmd, h⟩ | ⟨hcmd, h⟩ | ⟨-, -, -, -, h⟩ :=
      decodeFrame_cases f <;>
      rw [h] at hdec <;> cases hdec
    · exact ⟨rfl, _, rfl, hcmd.symm, by simp [hcmd, cmdIdle, cmdWr, cmdNew]⟩
    · exact ⟨wellFormed_decodeWr _ _, _, encode_decodeWr _ _, hcmd.symm,
        fun _ => ⟨rfl, rfl⟩, by simp [hcmd, cmdWr, cmdNew]⟩
    · exact ⟨rfl, _, rfl, hcmd.symm, by simp [hcmd, cmdGetSample, cmdWr, cmdNew]⟩
    · exact ⟨rfl, _, rfl, hcmd.symm, by simp [hcmd, cmdNew, cmdWr], fun _ => ⟨rfl, rfl⟩⟩
  · rintro c m _ ⟨⟩
    exact ⟨wellFormed_decodeMode c m, encode_decodeMode c m⟩

/-! ## The command port and the addresses -/

/-- Settles O1, row by row of the command table. -/
theorem commandPortDecodes : Obligations.CommandPortDecodes := by
  intro f
  refine ⟨fun h => if_pos h, fun h => ?_, fun h => ?_, fun h => ?_, fun h0 h1 h2 h4 => ?_⟩
  · simp [decode, decodeFrame, cmdIdle, cmdWr, h]
  · simp [decode, decodeFrame, cmdIdle, cmdWr, cmdGetSample, h]
  · simp [decode, decodeFrame, cmdIdle, cmdWr, cmdGetSample, cmdNew, h]
  · simp [decode, decodeFrame, cmdIdle, cmdWr, cmdGetSample, cmdNew, h0, h1, h2, h4]

/-- The six addresses are consecutive (D2). -/
theorem regAddr_toNat_mem (c : ChannelId) (k : RegKind) :
    0x15 ≤ (regAddr c k).toNat ∧ (regAddr c k).toNat ≤ 0x1A := by
  cases c <;> cases k <;> decide

theorem decodeAddr_outside {a : Addr} (h : a.toNat < 0x15 ∨ 0x1A < a.toNat) :
    decodeAddr a = none := by
  refine Option.eq_none_iff_forall_ne_some.mpr fun ⟨c, k⟩ hmapped => ?_
  have hmem := regAddr_toNat_mem c k
  rw [← decodeAddr_eq_some.mp hmapped] at hmem
  omega

/-- Settles O2: the six registers by name, every other address by lying outside their range. -/
theorem sixAddressesDecodeInFull : Obligations.SixAddressesDecodeInFull :=
  ⟨decodeAddr_regAddr .ch0 .control, decodeAddr_regAddr .ch1 .control,
    decodeAddr_regAddr .ch0 .frequency, decodeAddr_regAddr .ch1 .frequency,
    decodeAddr_regAddr .ch0 .volume, decodeAddr_regAddr .ch1 .volume,
    fun _ => decodeAddr_outside⟩

/-- Settles O3: the words are literals, and the decoder evaluates them. -/
theorem writtenOutWordsDecode : Obligations.WrittenOutWordsDecode := by
  unfold Obligations.WrittenOutWordsDecode
  decide

/-! ## The assembler -/

/-- `FILL n` is `n` `SAMPLE` lines, by induction on `n` (R72). -/
theorem frames_fill (n : Nat) : (AsmLine.fill n).frames =
    (List.replicate n AsmLine.sample).flatMap AsmLine.frames := by
  induction n with
  | zero => rfl
  | succ n ih => rw [List.replicate_succ, List.flatMap_cons, ← ih]; rfl

/-- Settles O59: a register name by the six names, an unmapped address as `WR_IGNORED`. -/
theorem assemblerLinesExpand : Obligations.AssemblerLinesExpand := by
  refine ⟨fun c k d => ⟨rfl, ?_⟩, fun a d hunmapped => ?_, frames_fill⟩
  · cases c <;> cases k <;> rfl
  · rw [decodeWr_unmapped hunmapped]; rfl

end Sys2Proof
end

section
/-! All register writes as one operation on one channel: store a field, then `Recompute` (R80 to
R92). -/

namespace Sys2Proof.Machine

/-- What a write to a register of kind `k` stores in its channel before `Recompute` (R63 to R65). -/
def storeField (k : RegKind) (d : Byte) (x : ChannelState) : ChannelState :=
  match k with
  | .control => { x with controlMode := controlField d }
  | .frequency => { x with frequencyDivisor := frequencyField d }
  | .volume => { x with volume := volumeField d }

/-- The write to a register of kind `k`, on its channel (R88). -/
def writeField (k : RegKind) (d : Byte) (x : ChannelState) : ChannelState :=
  recompute (storeField k d x)

/-! ## The dispatcher -/

theorem writeRegister_mapped (c : ChannelId) (k : RegKind) (d : Byte) (s : State) :
    writeRegister (regAddr c k) d s = s.writeCh c (writeField k d) := by
  rw [writeRegister, decodeAddr_regAddr]
  cases k <;> rfl

theorem writeRegister_unmapped {a : Addr} (h : decodeAddr a = none) (d : Byte) (s : State) :
    writeRegister a d s = s.withResult .nothing := by
  rw [writeRegister, h]

/-- Every address is a register's or decodes to none. -/
theorem addr_cases (a : Addr) : (∃ c k, a = regAddr c k) ∨ decodeAddr a = none := by
  cases haddr : decodeAddr a with
  | none => exact .inr rfl
  | some target => exact .inl ⟨target.1, target.2, decodeAddr_eq_some.mp haddr⟩

theorem regAddr_injective {c c' : ChannelId} {k k' : RegKind} (h : regAddr c k = regAddr c' k') :
    c = c' ∧ k = k' := by
  have hdec := congrArg decodeAddr h
  rw [decodeAddr_regAddr, decodeAddr_regAddr] at hdec
  simpa using hdec

@[simp] theorem writeRegister_pending (a : Addr) (d : Byte) (s : State) :
    (writeRegister a d s).pending = s.pending := by
  obtain ⟨c, k, rfl⟩ | hunmapped := addr_cases a
  · rw [writeRegister_mapped, State.writeCh_pending]
  · rw [writeRegister_unmapped hunmapped, State.withResult_pending]

@[simp] theorem writeRegister_result (a : Addr) (d : Byte) (s : State) :
    (writeRegister a d s).result = .nothing := by
  obtain ⟨c, k, rfl⟩ | hunmapped := addr_cases a
  · rw [writeRegister_mapped, State.writeCh_result]
  · rw [writeRegister_unmapped hunmapped, State.withResult_result]

@[simp] theorem writeRegister_accumulator (a : Addr) (d : Byte) (s : State) :
    (writeRegister a d s).chip.accumulator = s.chip.accumulator := by
  obtain ⟨c, k, rfl⟩ | hunmapped := addr_cases a
  · rw [writeRegister_mapped, State.writeCh_chip, ChipState.mapCh_accumulator]
  · rw [writeRegister_unmapped hunmapped, State.withResult_chip]

@[simp] theorem writeRegister_accumulatorStep (a : Addr) (d : Byte) (s : State) :
    (writeRegister a d s).chip.accumulatorStep = s.chip.accumulatorStep := by
  obtain ⟨c, k, rfl⟩ | hunmapped := addr_cases a
  · rw [writeRegister_mapped, State.writeCh_chip, ChipState.mapCh_accumulatorStep]
  · rw [writeRegister_unmapped hunmapped, State.withResult_chip]

/-- Everything a write can do to a channel: the write of one of its own registers, or nothing. -/
theorem writeRegister_ch_cases (a : Addr) (d : Byte) (s : State) (c : ChannelId) :
    (∃ k, a = regAddr c k ∧ (writeRegister a d s).chip.ch c = writeField k d (s.chip.ch c)) ∨
    ((∀ k, a ≠ regAddr c k) ∧ (writeRegister a d s).chip.ch c = s.chip.ch c) := by
  obtain ⟨c', k, rfl⟩ | hunmapped := addr_cases a
  · by_cases hc : c' = c
    · subst hc
      exact .inl ⟨k, rfl, by rw [writeRegister_mapped, State.writeCh_chip, ChipState.ch_mapCh_same]⟩
    · refine .inr ⟨fun k' haddr => hc (regAddr_injective haddr).1, ?_⟩
      rw [writeRegister_mapped, State.writeCh_chip, ChipState.ch_mapCh_other _ _ (Ne.symm hc)]
  · rw [writeRegister_unmapped hunmapped, State.withResult_chip]
    refine .inr ⟨fun k' haddr => ?_, rfl⟩
    rw [haddr, decodeAddr_regAddr] at hunmapped
    exact Option.some_ne_none _ hunmapped

/-! ## What a write keeps of its own channel -/

@[simp] theorem writeField_poly4Index (k : RegKind) (d : Byte) (x : ChannelState) :
    (writeField k d x).poly4Index = x.poly4Index := by
  rw [writeField, recompute_poly4Index]; cases k <;> rfl
@[simp] theorem writeField_poly5Index (k : RegKind) (d : Byte) (x : ChannelState) :
    (writeField k d x).poly5Index = x.poly5Index := by
  rw [writeField, recompute_poly5Index]; cases k <;> rfl
@[simp] theorem writeField_poly9Index (k : RegKind) (d : Byte) (x : ChannelState) :
    (writeField k d x).poly9Index = x.poly9Index := by
  rw [writeField, recompute_poly9Index]; cases k <;> rfl

theorem writeField_controlMode {k : RegKind} (h : k ≠ .control) (d : Byte) (x : ChannelState) :
    (writeField k d x).controlMode = x.controlMode := by
  rw [writeField, recompute_controlMode]
  cases k with
  | control => exact absurd rfl h
  | frequency => rfl
  | volume => rfl

theorem writeField_frequencyDivisor {k : RegKind} (h : k ≠ .frequency) (d : Byte)
    (x : ChannelState) : (writeField k d x).frequencyDivisor = x.frequencyDivisor := by
  rw [writeField, recompute_frequencyDivisor]
  cases k with
  | control => rfl
  | frequency => exact absurd rfl h
  | volume => rfl

theorem writeField_volume {k : RegKind} (h : k ≠ .volume) (d : Byte) (x : ChannelState) :
    (writeField k d x).volume = x.volume := by
  rw [writeField, recompute_volume]
  cases k with
  | control => rfl
  | frequency => rfl
  | volume => exact absurd rfl h

/-! ## Exact results and the frame -/

/-- The next state of a volume write, for either channel. -/
theorem exec_decodeWr_volume (c : ChannelId) (d : Byte) (s : State) :
    exec (decodeWr (regAddr c .volume) d) s = .next { s with
      chip := s.chip.setCh c
        (Stated.recomputed { s.chip.ch c with volume := ((d &&& 0x0F) <<< 3).setWidth 7 })
      result := .nothing } := by
  rw [exec_decodeWr, writeRegister_mapped, State.writeCh, ChipState.mapCh, writeField,
    recompute_eq_recomputed]
  rfl

/-- Settles O15: the volume write of either channel, at that channel's address. -/
theorem writeVolumeResult : Obligations.WriteVolumeResult :=
  fun d s => ⟨decode_wrFrame addrAudv0 d, exec_decodeWr_volume .ch0 d s,
    decode_wrFrame addrAudv1 d, exec_decodeWr_volume .ch1 d s⟩

/-- Settles O17: a mapped address by the kind of its register, an unmapped one by R87. -/
theorem writeDispatch : Obligations.WriteDispatch := by
  intro a d s
  refine ⟨decodeWr a d, decode_wrFrame a d, ?_⟩
  obtain ⟨c, k, rfl⟩ | hunmapped := addr_cases a
  · cases k with
    | control => rw [exec_decodeWr_control, decodeAddr_regAddr]
    | frequency => rw [exec_decodeWr_frequency, decodeAddr_regAddr]
    | volume => rw [exec_decodeWr_volume, decodeAddr_regAddr]
  · rw [exec_decodeWr, writeRegister_unmapped hunmapped, hunmapped]
    rfl

/-- A frame of a `WR` that decodes and completes has performed that write. -/
theorem eq_writeRegister {a : Addr} {d : Byte} {i : Instr} {s t : State}
    (hdec : decode (.port (wrFrame a d)) = .ok i) (hexec : exec i s = .next t) :
    t = writeRegister a d s := by
  rw [decode_wrFrame] at hdec
  cases hdec
  rw [exec_decodeWr] at hexec
  cases hexec
  rfl

/-- Settles O18: of a channel the address names, the write of one register; of another, nothing. -/
theorem writeFrame : Obligations.WriteFrame := by
  intro a d i s t hdec hexec
  obtain rfl := eq_writeRegister hdec hexec
  refine ⟨writeRegister_pending a d s, writeRegister_accumulator a d s,
    writeRegister_accumulatorStep a d s, fun c => ?_, fun c hother => ?_, fun c => ?_⟩
  · obtain ⟨k, -, hch⟩ | ⟨-, hch⟩ := writeRegister_ch_cases a d s c <;> simp [hch]
  · obtain ⟨k, haddr, -⟩ | ⟨-, hch⟩ := writeRegister_ch_cases a d s c
    · exact absurd haddr (hother k)
    · exact hch
  · obtain ⟨k, rfl, hch⟩ | ⟨-, hch⟩ := writeRegister_ch_cases a d s c <;> rw [hch]
    · exact ⟨fun hk => writeField_controlMode (mt (congrArg (regAddr c)) hk) d _,
        fun hk => writeField_frequencyDivisor (mt (congrArg (regAddr c)) hk) d _,
        fun hk => writeField_volume (mt (congrArg (regAddr c)) hk) d _⟩
    · exact ⟨fun _ => rfl, fun _ => rfl, fun _ => rfl⟩

/-! ## Repeated writes and the order of writes -/

/-- `Recompute` finds nothing left to do after itself. -/
@[simp] theorem recompute_recompute (x : ChannelState) : recompute (recompute x) = recompute x := by
  rw [recompute_eq (recompute x)]
  simp only [recompute_controlMode, recompute_frequencyDivisor, recompute_dividerMax,
    recompute_volume, recompute_outputLevel, ne_eq, not_true_eq_false, false_and, if_false]
  rw [recompute_eq x]
  split_ifs <;> rfl

/-- Storing a field that has just been written changes nothing. -/
theorem storeField_writeField (k : RegKind) (d : Byte) (x : ChannelState) :
    storeField k d (writeField k d x) = writeField k d x := by
  cases k <;> simp [storeField, writeField, recompute_eq]

theorem writeField_writeField (k : RegKind) (d : Byte) (x : ChannelState) :
    writeField k d (writeField k d x) = writeField k d x := by
  rw [writeField, storeField_writeField, writeField, recompute_recompute]

theorem mapCh_mapCh_same (k : ChipState) (c : ChannelId) (f g : ChannelState → ChannelState) :
    (k.mapCh c f).mapCh c g = k.mapCh c (g ∘ f) := by cases c <;> rfl

theorem mapCh_comm {c c' : ChannelId} (h : c ≠ c') (k : ChipState)
    (f g : ChannelState → ChannelState) :
    (k.mapCh c f).mapCh c' g = (k.mapCh c' g).mapCh c f := by
  cases c <;> cases c'
  · exact absurd rfl h
  · rfl
  · rfl
  · exact absurd rfl h

theorem writeRegister_writeRegister (a : Addr) (d : Byte) (s : State) :
    writeRegister a d (writeRegister a d s) = writeRegister a d s := by
  obtain ⟨c, k, rfl⟩ | hunmapped := addr_cases a
  · have hfield : writeField k d ∘ writeField k d = writeField k d :=
      funext (writeField_writeField k d)
    rw [writeRegister_mapped, writeRegister_mapped]
    simp only [State.writeCh, mapCh_mapCh_same, hfield]
  · simp only [writeRegister_unmapped hunmapped, State.withResult]

/-- Settles O19: the second write stores what stands there and recomputes what is recomputed. -/
theorem repeatedWriteIsIdempotent : Obligations.RepeatedWriteIsIdempotent := by
  intro a d i s t hdec hexec
  obtain rfl := eq_writeRegister hdec hexec
  rw [decode_wrFrame] at hdec
  cases hdec
  rw [exec_decodeWr, writeRegister_writeRegister]

theorem writeRegister_comm {c c' : ChannelId} (h : c ≠ c') (k k' : RegKind) (d d' : Byte)
    (s : State) :
    writeRegister (regAddr c' k') d' (writeRegister (regAddr c k) d s) =
      writeRegister (regAddr c k) d (writeRegister (regAddr c' k') d' s) := by
  simp only [writeRegister_mapped, State.writeCh, mapCh_comm h]

/-- Settles O20: writes to different channels commute as updates of different fields; the two
orders of the spec's example are run. -/
theorem writeOrder : Obligations.WriteOrder := by
  refine ⟨?_, ⟨_, rfl, by decide, by decide⟩, ⟨_, rfl, by decide, by decide⟩⟩
  intro c c' k k' d d' i i' s t u t' u' hc hdec hdec' ht hu ht' hu'
  rw [eq_writeRegister hdec' hu, eq_writeRegister hdec ht, eq_writeRegister hdec hu',
    eq_writeRegister hdec' ht', writeRegister_comm hc]

end Sys2Proof.Machine
end

section
/-! The sixteen modes against the bit tests (R101 to R127), each mode as its gate and its action. -/

namespace Sys2Proof.Machine

/-! ## A mode's own gate and action -/

/-- The action the bits of a nibble select (R104). -/
def modeAction (m : Mode) : ChannelState → ChannelState :=
  if pureBit m then toggle
  else if selBit m then if m = modePoly9 then poly9 else poly5Level
  else poly4

theorem action_eq_modeAction (x : ChannelState) : action x = modeAction x.controlMode x := by
  unfold action modeAction
  split_ifs <;> rfl

theorem gatePasses_eq_gateAlways {m : Mode} (hgate : gateBit m = false) :
    gatePasses m = gateAlways := funext (gatePasses_ungated hgate)

theorem gatePasses_eq_gateDiv31 {m : Mode} (hgate : gateBit m = true) (hinv : invBit m = false) :
    gatePasses m = gateDiv31 := funext (gatePasses_div31 hgate hinv)

theorem gatePasses_eq_gatePoly5 {m : Mode} (hgate : gateBit m = true) (hinv : invBit m = true) :
    gatePasses m = gatePoly5 := funext (gatePasses_poly5 hgate hinv)

/-- The meanings of the sixteen modes are the divider over the gate and the action of the nibble's
own bits. -/
theorem exec_decodeMode (c : ChannelId) (m : Mode) (s : State) :
    exec (decodeMode c m) s =
      .next (s.tickCh c (divide (eventOf (gatePasses m) (modeAction m)))) := by
  rcases mode_cases m with
    rfl | rfl | rfl | rfl | rfl | rfl | rfl | rfl | rfl | rfl | rfl | rfl | rfl | rfl | rfl | rfl
  · rw [gatePasses_eq_gateAlways (m := 0) rfl]; rfl
  · rw [gatePasses_eq_gateAlways (m := 1) rfl]; rfl
  · rw [gatePasses_eq_gateDiv31 (m := 2) rfl rfl]; rfl
  · rw [gatePasses_eq_gatePoly5 (m := 3) rfl rfl]; rfl
  · rw [gatePasses_eq_gateAlways (m := 4) rfl]; rfl
  · rw [gatePasses_eq_gateAlways (m := 5) rfl]; rfl
  · rw [gatePasses_eq_gateDiv31 (m := 6) rfl rfl]; rfl
  · rw [gatePasses_eq_gatePoly5 (m := 7) rfl rfl]; rfl
  · rw [gatePasses_eq_gateAlways (m := 8) rfl]; rfl
  · rw [gatePasses_eq_gateAlways (m := 9) rfl]; rfl
  · rw [gatePasses_eq_gateDiv31 (m := 10) rfl rfl]; rfl
  · rw [gatePasses_eq_gatePoly5 (m := 11) rfl rfl]; rfl
  · rw [gatePasses_eq_gateAlways (m := 12) rfl]; rfl
  · rw [gatePasses_eq_gateAlways (m := 13) rfl]; rfl
  · rw [gatePasses_eq_gateDiv31 (m := 14) rfl rfl]; rfl
  · rw [gatePasses_eq_gatePoly5 (m := 15) rfl rfl]; rfl

/-- The event of the bit tests is the event of the mode the register holds. -/
theorem underflow_eq_modeEvent (x : ChannelState) :
    underflow x = eventOf (gatePasses x.controlMode) (modeAction x.controlMode) x := by
  rw [underflow_eq_gated, eventOf_eq_gated, action_eq_modeAction]
  rfl

theorem channelStep_eq_divide (x : ChannelState) : channelStep x =
    divide (eventOf (gatePasses x.controlMode) (modeAction x.controlMode)) x := by
  simp only [channelStep, divide, underflow_eq_modeEvent]

/-- Settles O27: both sides are the divider over the gate and the action of the register's bits. -/
theorem modesAreTheBitTests : Obligations.ModesAreTheBitTests := by
  rintro c s _ ⟨⟩
  rw [exec_decodeMode, State.tickCh, ChipState.mapCh, ← channelStep_eq_divide]

/-! ## The exact tick of each mode -/

/-- A mode's tick, with the gated event the statements write out. -/
theorem tickCh_eq_afterTick (s : State) (c : ChannelId) (gate : Fin 31 → Bool)
    (act : ChannelState → ChannelState) :
    s.tickCh c (divide (eventOf gate act)) = Stated.afterTick s c
      (Stated.gated gate (s.chip.ch c) (act (Stated.reloaded (s.chip.ch c)))) := rfl

theorem gated_gateAlways (x e : ChannelState) : Stated.gated gateAlways x e = e := rfl

theorem poly4_reloaded (x : ChannelState) : poly4 (Stated.reloaded x) = Stated.poly4Event x := rfl

theorem poly9_reloaded (x : ChannelState) : poly9 (Stated.reloaded x) = Stated.poly9Event x := rfl

theorem poly5Level_reloaded (x : ChannelState) :
    poly5Level (Stated.reloaded x) = Stated.poly5Event x := rfl

theorem toggle_reloaded (x : ChannelState) : toggle (Stated.reloaded x) = Stated.toggleEvent x :=
  toggle_eq _

/-- The next state of an ungated mode. -/
theorem next_tickCh_ungated {act event : ChannelState → ChannelState}
    (hact : ∀ x, act (Stated.reloaded x) = event x) (s : State) (c : ChannelId) :
    (.next (s.tickCh c (divide (eventOf gateAlways act))) : Host.Outcome State Fault Refusal) =
      .next (Stated.afterTick s c (event (s.chip.ch c))) := by
  rw [tickCh_eq_afterTick, gated_gateAlways, hact]

/-- The next state of a gated mode. -/
theorem next_tickCh_gated {act event : ChannelState → ChannelState}
    (hact : ∀ x, act (Stated.reloaded x) = event x) (gate : Fin 31 → Bool) (s : State)
    (c : ChannelId) :
    (.next (s.tickCh c (divide (eventOf gate act))) : Host.Outcome State Fault Refusal) =
      .next (Stated.afterTick s c (Stated.gated gate (s.chip.ch c) (event (s.chip.ch c)))) := by
  rw [tickCh_eq_afterTick, hact]

theorem mapCh_eq_self {k : ChipState} {c : ChannelId} {f : ChannelState → ChannelState}
    (h : f (k.ch c) = k.ch c) : k.mapCh c f = k := by
  rw [ChipState.mapCh, h]
  cases c <;> rfl

/-- Settles O28: the general tick, and the stopped divider of a mode 0 that the block reaches. -/
theorem modeZeroResult : Obligations.ModeZeroResult := by
  refine fun c s => ⟨next_tickCh_ungated poly4_reloaded s c, fun hstopped => ?_⟩
  rw [exec, execMode0, State.tickCh, mapCh_eq_self (divide_stopped hstopped)]

/-- Settles O29: one action under the three gates. -/
theorem polyFourModeResults : Obligations.PolyFourModeResults :=
  fun c s => ⟨next_tickCh_ungated poly4_reloaded s c,
    next_tickCh_gated poly4_reloaded gateDiv31 s c, next_tickCh_gated poly4_reloaded gatePoly5 s c⟩

/-- Settles O30: one action and no gate in all four modes. -/
theorem pureToneModeResults : Obligations.PureToneModeResults :=
  fun c s => ⟨next_tickCh_ungated toggle_reloaded s c, next_tickCh_ungated toggle_reloaded s c,
    next_tickCh_ungated toggle_reloaded s c, next_tickCh_ungated toggle_reloaded s c⟩

/-- Settles O31: one action under the two table gates. -/
theorem gatedPureToneModeResults : Obligations.GatedPureToneModeResults :=
  fun c s => ⟨next_tickCh_gated toggle_reloaded gateDiv31 s c,
    next_tickCh_gated toggle_reloaded gateDiv31 s c,
    next_tickCh_gated toggle_reloaded gatePoly5 s c,
    next_tickCh_gated toggle_reloaded gatePoly5 s c⟩

/-- Settles O32: the poly9 action without a gate. -/
theorem polyNineModeResult : Obligations.PolyNineModeResult :=
  fun c s => next_tickCh_ungated poly9_reloaded s c

/-- Settles O33: one action under the three gates. -/
theorem polyFiveModeResults : Obligations.PolyFiveModeResults :=
  fun c s => ⟨next_tickCh_ungated poly5Level_reloaded s c,
    next_tickCh_gated poly5Level_reloaded gateDiv31 s c,
    next_tickCh_gated poly5Level_reloaded gatePoly5 s c⟩

/-! ## The frame of a tick -/

/-- A field that the divider, the reload and the action all keep is kept by a tick. -/
theorem divide_eventOf_keeps {α : Type} (field : ChannelState → α) {gate : Fin 31 → Bool}
    {act : ChannelState → ChannelState}
    (hcounter : ∀ x n, field { x with dividerCounter := n } = field x)
    (hreload : ∀ x, field (reload x) = field x) (hact : ∀ x, field (act x) = field x)
    (x : ChannelState) : field (divide (eventOf gate act) x) = field x := by
  rcases divider_cases x.dividerCounter with h | h | h
  · rw [divide_running h, hcounter]
  · rw [divide_underflow h]
    obtain ⟨-, hevent⟩ | ⟨-, hevent⟩ := eventOf_cases gate act x <;> rw [hevent]
    · rw [hact, hreload]
    · rw [hreload]
  · rw [divide_stopped h]

/-- Without an underflow a tick moves at most the counter. -/
theorem divide_of_ne_one {e : ChannelState → ChannelState} {x : ChannelState}
    (h : x.dividerCounter ≠ 1) :
    divide e x = { x with dividerCounter := (divide e x).dividerCounter } := by
  rcases divider_cases x.dividerCounter with hrun | hone | hstop
  · rw [divide_running hrun]
  · exact absurd hone h
  · rw [divide_stopped hstop]

/-- Settles O34, from the one gate and the one action of the mode. -/
theorem modeFrame : Obligations.ModeFrame := by
  rintro c m _ s t ⟨⟩ hexec
  obtain ⟨gate, act, hmode, hact, hpoly4, hpoly9⟩ := exec_mode c m
  rw [hmode] at hexec
  cases hexec
  have hsame := divide_eventOf_spec (gate := gate) hact (s.chip.ch c)
  simp only [State.tickCh_chip, ChipState.ch_mapCh_same]
  refine ⟨rfl, rfl, ChipState.mapCh_accumulator _ _ _, ChipState.mapCh_accumulatorStep _ _ _,
    fun c' hother => ChipState.ch_mapCh_other _ _ hother, hsame.controlMode,
    hsame.frequencyDivisor, hsame.volume, hsame.dividerMax, fun hm => ?_, fun hm => ?_,
    divide_of_ne_one, hsame.level⟩
  · exact divide_eventOf_keeps ChannelState.poly4Index (fun _ _ => rfl) (fun _ => rfl)
      (hpoly4 hm) _
  · exact divide_eventOf_keeps ChannelState.poly9Index (fun _ _ => rfl) (fun _ => rfl)
      (hpoly9 hm) _

/-! ## Div-by-3 -/

/-- The nibbles of modes 4 to 7 beside those with bit 3 set: both pure, the same gate, and only the
second in the div-by-3 set (R66, R68). -/
theorem pureMode_bits : ∀ m : Mode, 4 ≤ m.toNat → m.toNat < 8 →
    (m ≠ 0 ∧ m &&& div3Mask ≠ div3Mask ∧ pureBit m = true) ∧
    (m ||| 0b1000 ≠ 0 ∧ (m ||| 0b1000) &&& div3Mask = div3Mask ∧ pureBit (m ||| 0b1000) = true) ∧
    gateBit (m ||| 0b1000) = gateBit m ∧ invBit (m ||| 0b1000) = invBit m := by decide

theorem modeAction_pure {m : Mode} (hpure : pureBit m = true) : modeAction m = toggle := by
  rw [modeAction, if_pos hpure]

/-- Settles O35: bit 3 selects the factor 3 of the divisor and is read by neither the gate nor the
action of a pure mode. -/
theorem divideByThreeModes : Obligations.DivideByThreeModes := by
  intro m hlow hhigh
  obtain ⟨⟨hm0, hm3, hpure⟩, ⟨hd0, hd3, hdpure⟩, hgate, hinv⟩ := pureMode_bits m hlow hhigh
  refine ⟨fun f => ?_, ?_⟩
  · rw [effDiv_of_div3 hd0 hd3, effDiv_of_not_div3 hm0 hm3, toNat_freq_succ_mul_three,
      toNat_freq_succ]
  · rintro c s _ _ ⟨⟩ ⟨⟩
    have hgates : gatePasses (m ||| 0b1000) = gatePasses m := by
      funext p5
      simp only [gatePasses, hgate, hinv]
    rw [exec_decodeMode, exec_decodeMode, hgates, modeAction_pure hpure, modeAction_pure hdpure]

end Sys2Proof.Machine
end

section
/-! Ticks in a row (R101, R126, R194): the count down to the underflow, the periods of the
sequences, and what a mode keeps for ever. -/

namespace Sys2Proof.Machine

/-! ## Iterated ticks of the block -/

@[simp] theorem tick_iterate_ch (n : Nat) (k : ChipState) (c : ChannelId) :
    (tick^[n] k).ch c = channelStep^[n] (k.ch c) :=
  Function.Semiconj.iterate_right (f := fun k => ChipState.ch k c) (fun k => tick_ch k c) n k

@[simp] theorem tick_iterate_accumulator (n : Nat) (k : ChipState) :
    (tick^[n] k).accumulator = k.accumulator :=
  Function.Iterate.rec (fun l : ChipState => l.accumulator = k.accumulator)
    rfl (fun l h => (tick_accumulator l).trans h) n

@[simp] theorem tick_iterate_accumulatorStep (n : Nat) (k : ChipState) :
    (tick^[n] k).accumulatorStep = k.accumulatorStep :=
  Function.Iterate.rec (fun l : ChipState => l.accumulatorStep = k.accumulatorStep)
    rfl (fun l h => (tick_accumulatorStep l).trans h) n

/-! ## Counting down to the underflow -/

/-- Below its count a running divider only counts down. -/
theorem channelStep_iterate_countdown {x : ChannelState} {n : Nat}
    (h : n < x.dividerCounter.toNat) : channelStep^[n] x =
      { x with dividerCounter := x.dividerCounter - BitVec.ofNat 8 n } := by
  induction n with
  | zero => simp
  | succ n ih =>
    have hrun : 1 < x.dividerCounter - BitVec.ofNat 8 n := by bv_omega
    rw [Function.iterate_succ_apply', ih (by omega), channelStep, divide_running hrun]
    congr 1
    bv_omega

/-- The event does not read the counter. -/
theorem underflow_with_dividerCounter (x : ChannelState) (n : Divider) :
    underflow { x with dividerCounter := n } = underflow x := rfl

/-- The tick that completes the count is the underflow event. -/
theorem channelStep_iterate_underflow {x : ChannelState} (h : x.dividerCounter ≠ 0) :
    channelStep^[x.dividerCounter.toNat] x = underflow x := by
  obtain ⟨n, hn⟩ : ∃ n, x.dividerCounter.toNat = n + 1 :=
    Nat.exists_eq_succ_of_ne_zero fun h0 => h (BitVec.eq_of_toNat_eq h0)
  have hone : x.dividerCounter - BitVec.ofNat 8 n = 1 := by bv_omega
  rw [hn, Function.iterate_succ_apply', channelStep_iterate_countdown (by omega), hone,
    channelStep, divide_underflow rfl, underflow_with_dividerCounter]

/-- Settles O26: a full divider counts down from `N` and underflows on the `N`th tick. -/
theorem underflowEveryDivisorTicks : Obligations.UnderflowEveryDivisorTicks := by
  intro k c hne hfull
  refine ⟨fun n hn => ?_, ?_, underflow_dividerCounter _⟩
  · rw [tick_iterate_ch, channelStep_iterate_countdown (hfull ▸ hn), hfull]
  · rw [tick_iterate_ch, ← hfull, channelStep_iterate_underflow (hfull ▸ hne)]

/-! ## Lazy reload -/

theorem effDiv_ne_zero {m : Mode} (hm : m ≠ 0) (f : Freq) : effDiv m f ≠ 0 := by
  intro h0
  have hvalue := effectiveDivisorValue m f
  rw [h0, if_neg hm] at hvalue
  split_ifs at hvalue <;> simp at hvalue

theorem effDiv_eq_zero {m : Mode} {f : Freq} : effDiv m f = 0 ↔ m = 0 :=
  ⟨fun h => not_not.mp fun hm => effDiv_ne_zero hm f h, fun h => h ▸ effDiv_mode_zero f⟩

/-- A running count survives `Recompute` in every mode but 0. -/
theorem recompute_dividerCounter_running {x : ChannelState} (hm : x.controlMode ≠ 0)
    (hrun : x.dividerCounter ≠ 0) : (recompute x).dividerCounter = x.dividerCounter := by
  rw [recompute_eq]
  exact if_neg fun ⟨_, hreload⟩ => hreload.elim hrun (effDiv_ne_zero hm _)

/-- A channel that was never clocked is loaded with its first divisor. -/
theorem recompute_dividerCounter_stopped {x : ChannelState} (hcounter : x.dividerCounter = 0)
    (hmax : x.dividerMax = 0) :
    (recompute x).dividerCounter = effDiv x.controlMode x.frequencyDivisor := by
  rw [recompute_eq, hcounter, hmax]
  dsimp only
  split_ifs with hreload
  · rfl
  · exact (not_not.mp fun hne => hreload ⟨hne, .inl rfl⟩).symm

/-- Mode 0 stops a channel that has a divisor. -/
theorem recompute_dividerCounter_mode_zero {x : ChannelState} (hm : x.controlMode = 0)
    (hmax : x.dividerMax ≠ 0) : (recompute x).dividerCounter = 0 := by
  have h0 : effDiv x.controlMode x.frequencyDivisor = 0 := effDiv_eq_zero.mpr hm
  rw [recompute_eq, h0]
  exact if_pos ⟨hmax.symm, .inr rfl⟩

/-- Every event advances `poly5Index`, the gate open or closed (R102). -/
@[simp] theorem underflow_poly5Index (x : ChannelState) :
    (underflow x).poly5Index = nextIndex x.poly5Index := by
  rw [underflow]
  obtain ⟨-, hpass⟩ | ⟨-, hstop⟩ := eventOf_cases (gatePasses x.controlMode) action x
  · rw [hpass, (action_spec (reload x)).poly5Index, reload_eq]
  · rw [hstop, reload_eq]

theorem writeRegister_ch_mapped (c : ChannelId) (k : RegKind) (d : Byte) (s : State) :
    (writeRegister (regAddr c k) d s).chip.ch c = recompute (storeField k d (s.chip.ch c)) := by
  rw [writeRegister_mapped, State.writeCh_chip, ChipState.ch_mapCh_same, writeField]

/-- Settles O22: what `Recompute` does to the counter, and then the count down from there. -/
theorem lazyReload : Obligations.LazyReload := by
  intro c d i s t hexec
  refine ⟨fun hdec hm hrun => ?_, fun hdec => ?_⟩
  · obtain rfl := eq_writeRegister hdec hexec
    have hch := writeRegister_ch_mapped c .frequency d s
    generalize writeRegister (regAddr c .frequency) d s = t at hch ⊢
    have hcounter : (t.chip.ch c).dividerCounter = (s.chip.ch c).dividerCounter := by
      rw [hch]
      exact recompute_dividerCounter_running (x := storeField .frequency d (s.chip.ch c)) hm hrun
    have hpoly5 : (t.chip.ch c).poly5Index = (s.chip.ch c).poly5Index := by
      rw [hch, recompute_poly5Index]; rfl
    have hlast : (tick^[(s.chip.ch c).dividerCounter.toNat] t.chip).ch c =
        underflow (t.chip.ch c) := by
      rw [tick_iterate_ch, ← hcounter, channelStep_iterate_underflow (hcounter ▸ hrun)]
    refine ⟨hcounter, by rw [hch, recompute_dividerMax]; rfl, fun n hn => ?_, ?_, ?_⟩
    · rw [tick_iterate_ch, channelStep_iterate_countdown (hcounter ▸ hn), hcounter]
    · rw [hlast, underflow_dividerCounter]
    · rw [hlast, underflow_poly5Index, nextIndex_val, hpoly5]
  · obtain rfl := eq_writeRegister hdec hexec
    rw [writeRegister_ch_mapped]
    exact ⟨recompute_dividerCounter_running (x := storeField .control d (s.chip.ch c)),
      fun _ => recompute_dividerCounter_stopped (x := storeField .control d (s.chip.ch c)),
      recompute_dividerCounter_mode_zero (x := storeField .control d (s.chip.ch c))⟩

/-- Everything the other reading of `Recompute` does, field by field. -/
theorem recomputedBeside_eq (x : ChannelState) : Stated.recomputedBeside x =
    { x with
      outputLevel := if x.controlMode = 0 then x.volume else x.outputLevel
      dividerMax := effDiv x.controlMode x.frequencyDivisor
      dividerCounter :=
        if x.dividerCounter = 0 ∨ effDiv x.controlMode x.frequencyDivisor = 0
        then effDiv x.controlMode x.frequencyDivisor else x.dividerCounter } := by
  obtain hsame | hdiffers := eq_or_ne (effDiv x.controlMode x.frequencyDivisor) x.dividerMax
  · simp only [Stated.recomputedBeside, hsame, ne_eq, not_true_eq_false, if_false]
    split_ifs <;> rfl
  · simp only [Stated.recomputedBeside, hdiffers, ne_eq, not_false_eq_true, if_true]
    split_ifs <;> rfl

/-- Where the counter and the reload value are 0 together the two readings agree: an unchanged
divisor is reloaded only over a counter that already holds it. -/
theorem recompute_eq_recomputedBeside {x : ChannelState}
    (hstopped : x.dividerCounter = 0 ↔ x.dividerMax = 0) :
    recompute x = Stated.recomputedBeside x := by
  rw [recompute_eq, recomputedBeside_eq]
  congr 1
  obtain hsame | hdiffers := eq_or_ne (effDiv x.controlMode x.frequencyDivisor) x.dividerMax
  · rw [if_neg fun h => h.1 hsame, hsame]
    split_ifs with h0
    · have hcounter : x.dividerCounter = 0 := h0.elim id hstopped.mpr
      rw [hcounter, hstopped.mp hcounter]
    · rfl
  · simp only [hdiffers, ne_eq, not_false_eq_true, true_and]

/-- Settles O21: a write stores a register, so I5 still relates the counter to the reload value. -/
theorem recomputeReadingsAgree : Obligations.RecomputeReadingsAgree := fun x d hinv =>
  ⟨recompute_eq_recomputedBeside (x := storeField .control d x) hinv.stopped,
    recompute_eq_recomputedBeside (x := storeField .frequency d x) hinv.stopped,
    recompute_eq_recomputedBeside (x := storeField .volume d x) hinv.stopped⟩

/-! ## Periods -/

theorem nextIndex_iterate_val {L : Nat} (k : Nat) (i : Fin L) :
    (nextIndex^[k] i).val = (i.val + k) % L := by
  induction k with
  | zero => exact (Nat.mod_eq_of_lt i.isLt).symm
  | succ k ih =>
    rw [Function.iterate_succ_apply', nextIndex_val, ih, Nat.mod_add_mod, Nat.add_assoc]

/-- A position of a table of length `L` has period `L` (R24). -/
theorem nextIndex_iterate_length {L : Nat} (i : Fin L) : nextIndex^[L] i = i :=
  Fin.ext (by rw [nextIndex_iterate_val, Nat.add_mod_right, Nat.mod_eq_of_lt i.isLt])

theorem underflow_iterate_poly5Index (k : Nat) (x : ChannelState) :
    (underflow^[k] x).poly5Index = nextIndex^[k] x.poly5Index :=
  Function.Semiconj.iterate_right (f := ChannelState.poly5Index) underflow_poly5Index k x

theorem underflow_controlMode_volume (x : ChannelState) :
    (underflow x).controlMode = x.controlMode ∧ (underflow x).volume = x.volume := by
  rw [underflow]
  obtain ⟨-, hpass⟩ | ⟨-, hstop⟩ := eventOf_cases (gatePasses x.controlMode) action x
  · rw [hpass]
    exact ⟨(action_spec (reload x)).controlMode, (action_spec (reload x)).volume⟩
  · rw [hstop]
    exact ⟨rfl, rfl⟩

theorem underflow_iterate_controlMode_volume (k : Nat) (x : ChannelState) :
    (underflow^[k] x).controlMode = x.controlMode ∧ (underflow^[k] x).volume = x.volume :=
  Function.Iterate.rec
    (fun y : ChannelState => y.controlMode = x.controlMode ∧ y.volume = x.volume) ⟨rfl, rfl⟩
    (fun y ⟨hmode, hvolume⟩ =>
      (underflow_controlMode_volume y).imp (·.trans hmode) (·.trans hvolume)) k

/-- A mode in which every event advances a position and sets the level from the table's bit there
has the period of that table, from the first event on. -/
theorem outputLevel_periodic {L : Nat} {m : Mode} (position : ChannelState → Fin L)
    (bit : Fin L → Bool)
    (hstep : ∀ y, y.controlMode = m → position (underflow y) = nextIndex (position y) ∧
      (underflow y).outputLevel = levelOf (bit (nextIndex (position y))) y.volume)
    {x : ChannelState} {k : Nat} (hm : x.controlMode = m) (hk : 1 ≤ k) :
    (underflow^[k + L] x).outputLevel = (underflow^[k] x).outputLevel := by
  have hposition : ∀ n, position (underflow^[n] x) = nextIndex^[n] (position x) := by
    intro n
    induction n with
    | zero => rfl
    | succ n ih =>
      rw [Function.iterate_succ_apply', Function.iterate_succ_apply', ← ih]
      exact (hstep _ ((underflow_iterate_controlMode_volume n x).1.trans hm)).1
  have hlevel : ∀ n, (underflow^[n + 1] x).outputLevel =
      levelOf (bit (nextIndex^[n + 1] (position x))) x.volume := by
    intro n
    obtain ⟨hmode, hvolume⟩ := underflow_iterate_controlMode_volume n x
    rw [Function.iterate_succ_apply', (hstep _ (hmode.trans hm)).2, hposition, hvolume,
      Function.iterate_succ_apply']
  obtain ⟨n, rfl⟩ := Nat.exists_eq_add_of_le' hk
  rw [Nat.add_right_comm, hlevel, hlevel, Nat.add_right_comm, Function.iterate_add_apply,
    nextIndex_iterate_length]

/-- Settles O36: the position of each table has the table's length as its period, and in modes 1, 9
and 8 the level follows one position. -/
theorem sequencesArePeriodic : Obligations.SequencesArePeriodic := by
  refine fun x k => ⟨?_, outputLevel_periodic ChannelState.poly4Index poly4Bit (fun y hy => ?_),
    outputLevel_periodic ChannelState.poly5Index poly5Bit (fun y hy => ?_),
    outputLevel_periodic ChannelState.poly9Index poly9Bit (fun y hy => ?_)⟩
  · rw [underflow_iterate_poly5Index, underflow_iterate_poly5Index, Function.iterate_add_apply,
      nextIndex_iterate_length]
  all_goals
    rw [underflow_eq_modeEvent, hy]
    exact ⟨rfl, rfl⟩

/-! ## Mode 11 -/

/-- In mode 11 an event that acts reads the 1 that let it act, so it sets the level to the volume
(R121). -/
theorem channelStep_mode11_stays_on {x : ChannelState}
    (h : x.controlMode = 11 ∧ x.volume ≠ 0 ∧ x.outputLevel ≠ 0) :
    (channelStep x).controlMode = 11 ∧ (channelStep x).volume ≠ 0 ∧
      (channelStep x).outputLevel ≠ 0 := by
  obtain ⟨hm, hvolume, hlevel⟩ := h
  have hsame := channelStep_spec x
  refine ⟨hsame.controlMode.trans hm, hsame.volume ▸ hvolume, ?_⟩
  rcases divider_cases x.dividerCounter with hrun | hone | hstop
  · rw [channelStep, divide_running hrun]; exact hlevel
  · rw [channelStep, divide_underflow hone, underflow_eq_modeEvent, hm,
      gatePasses_eq_gatePoly5 (m := 11) rfl rfl]
    obtain ⟨hbit, hevent⟩ | ⟨-, hevent⟩ := eventOf_cases gatePoly5 (modeAction 11) x <;> rw [hevent]
    · change levelOf (gatePoly5 (nextIndex x.poly5Index)) x.volume ≠ 0
      rw [hbit]
      exact hvolume
    · exact hlevel
  · rw [channelStep, divide_stopped hstop]; exact hlevel

/-- Settles O37: on and in mode 11 with a volume is kept by every tick. -/
theorem modeElevenNeverTurnsOff : Obligations.ModeElevenNeverTurnsOff := by
  intro k c n hm hvolume hlevel
  rw [tick_iterate_ch]
  obtain ⟨-, -, hon⟩ := Function.Iterate.rec
    (fun x : ChannelState => x.controlMode = 11 ∧ x.volume ≠ 0 ∧ x.outputLevel ≠ 0)
    ⟨hm, hvolume, hlevel⟩ (fun _ => channelStep_mode11_stays_on) n
  exact hon

end Sys2Proof.Machine
end

section
/-! `GETSAMPLE` and `FILLBUFFER` in closed form (R140 to R146). -/

namespace Sys2Proof.Machine

/-! ## The closed form of a sample -/

/-- The block a `GETSAMPLE` leaves (R143). -/
def sampled (k : ChipState) : ChipState :=
  { tick^[tickCount k.accumulator] k with
    accumulator := k.accumulator - 256 * (tickCount k.accumulator : Int) +
      (k.accumulatorStep.toNat : Int) }

/-- The sample a `GETSAMPLE` returns: the mix after its last tick. -/
def sampleOf (k : ChipState) : Sample := mix (tick^[tickCount k.accumulator] k)

@[simp] theorem ch_with_accumulator (k : ChipState) (a : Int) (c : ChannelId) :
    ChipState.ch { k with accumulator := a } c = k.ch c := by cases c <;> rfl

theorem sampled_ch (k : ChipState) (c : ChannelId) :
    (sampled k).ch c = channelStep^[tickCount k.accumulator] (k.ch c) := by
  rw [sampled, ch_with_accumulator, tick_iterate_ch]

theorem sampled_accumulator (k : ChipState) : (sampled k).accumulator =
    k.accumulator - 256 * (tickCount k.accumulator : Int) + (k.accumulatorStep.toNat : Int) := rfl

@[simp] theorem sampled_accumulatorStep (k : ChipState) :
    (sampled k).accumulatorStep = k.accumulatorStep := tick_iterate_accumulatorStep _ k

theorem sampleOf_eq_mix_sampled (k : ChipState) : sampleOf k = mix (sampled k) := rfl

/-! ## The loop -/

theorem tickCount_eq (a : Int) : tickCount a = max 1 (a / 256).toNat := rfl

/-- Below 512 the first tick emits. -/
theorem tickCount_of_lt {a : Int} (h : a < 512) : tickCount a = 1 := by
  rw [tickCount_eq]; omega

/-- From 512 on, a tick that emits nothing leaves one tick less to go. -/
theorem tickCount_of_le {a : Int} (h : 512 ≤ a) : tickCount a = tickCount (a - 256) + 1 := by
  rw [tickCount_eq, tickCount_eq]; omega

theorem tick_iterate_with_accumulator (n : Nat) (k : ChipState) (a : Int) :
    tick^[n] { k with accumulator := a } = { tick^[n] k with accumulator := a } :=
  (Function.Semiconj.iterate_right (f := fun l : ChipState => { l with accumulator := a })
    (fun l => (tick_with_accumulator l a).symm) n k).symm

/-- A tick that emits nothing leaves the block and the sample to be reached the same. -/
theorem sampled_silent {k : ChipState} (h : 512 ≤ k.accumulator) :
    sampled { tick k with accumulator := k.accumulator - 256 } = sampled k ∧
    sampleOf { tick k with accumulator := k.accumulator - 256 } = sampleOf k := by
  have hcount := tickCount_of_le h
  refine ⟨ChipState.ext_ch (fun c => ?_) ?_ ?_, ?_⟩
  · rw [sampled_ch, sampled_ch, ch_with_accumulator, tick_ch, hcount, Function.iterate_succ_apply]
  · rw [sampled_accumulator, sampled_accumulator, hcount, tick_accumulatorStep]
    push_cast
    ring
  · rw [sampled_accumulatorStep, sampled_accumulatorStep, tick_accumulatorStep]
  · simp only [sampleOf, tick_iterate_with_accumulator, mix_with_accumulator, hcount,
      Function.iterate_succ_apply]

/-- The loop emits within the tick count of R143, by induction on that count. -/
theorem sampleLoop_eq {n : Nat} {k : ChipState} (hn : tickCount k.accumulator = n) :
    sampleLoop n k = some (sampled k, sampleOf k) := by
  induction n generalizing k with
  | zero => exact absurd (tickCount_pos k.accumulator) (by omega)
  | succ n ih =>
    obtain hemits | hsilent := lt_or_ge k.accumulator 512
    · rw [sampleLoop_emits n hemits, sampled, sampleOf, tickCount_of_lt hemits]
      rfl
    · have hcount := tickCount_of_le hsilent
      obtain ⟨hsampled, hsample⟩ := sampled_silent hsilent
      rw [sampleLoop_silent n hsilent, ih (show tickCount (k.accumulator - 256) = n by omega),
        hsampled, hsample]

theorem getSample_eq (k : ChipState) : getSample k = some (sampled k, sampleOf k) :=
  sampleLoop_eq rfl

theorem exec_getSample (s : State) : exec .getSample s =
    .next { s with chip := sampled s.chip, result := .sample (sampleOf s.chip) } := by
  rw [exec, execGetSample, getSample_eq]

/-- `FILLBUFFER` is as many samples in a row. -/
theorem fillSlots_eq (n : Nat) (k : ChipState) :
    fillSlots n k = some (sampled^[n] k, (List.iterate sampled k n).map sampleOf) := by
  induction n generalizing k with
  | zero => rfl
  | succ n ih => rw [fillSlots_succ n (getSample_eq k), ih]; rfl

theorem exec_fillBuffer (n : Nat) (s : State) : exec (.fillBuffer n) s =
    .next { s with
      chip := sampled^[n] s.chip
      result := .buffer ((List.iterate sampled s.chip n).map sampleOf) } := by
  rw [exec, execFillBuffer, fillSlots_eq]

/-! ## Results -/

/-- Settles O39: the two branches of `NTICK`, and updates of different fields in either order. -/
theorem nativeTickResult : Obligations.NativeTickResult :=
  fun _ => ⟨fun h => ntick_emits (by omega), fun h => ntick_silent (by omega), rfl, rfl⟩

/-- Settles O40: the closed form, with the tick count of R143 written out. -/
theorem getSampleResult : Obligations.GetSampleResult := exec_getSample

/-- Two seven-bit levels have an eight-bit sum. -/
theorem mix_toNat (k : ChipState) :
    (mix k).toNat = k.ch0.outputLevel.toNat + k.ch1.outputLevel.toNat := by
  rw [mix]
  bv_omega

/-- Settles O45: each level on the scale is at most 120. -/
theorem mixIsThePlainSum : Obligations.MixIsThePlainSum := by
  refine fun k => ⟨mix_toNat k, fun h0 h1 => ?_⟩
  have hlow := h0.2
  have hhigh := h1.2
  rw [mix_toNat]
  omega

/-- Settles O43: a sample of a channel is a function of that channel and the accumulator. -/
theorem channelsDoNotInterfere : Obligations.ChannelsDoNotInterfere := by
  intro s s' t t' c hch hacc hstep ht ht'
  rw [exec_getSample] at ht ht'
  cases ht
  cases ht'
  exact ⟨by rw [sampled_ch, sampled_ch, hch, hacc],
    by rw [sampled_accumulator, sampled_accumulator, hacc, hstep]⟩

/-! ## The frame of sampling -/

theorem sampled_registers (k : ChipState) (c : ChannelId) :
    ((sampled k).ch c).controlMode = (k.ch c).controlMode ∧
    ((sampled k).ch c).frequencyDivisor = (k.ch c).frequencyDivisor ∧
    ((sampled k).ch c).volume = (k.ch c).volume ∧
    ((sampled k).ch c).dividerMax = (k.ch c).dividerMax := by
  rw [sampled_ch]
  exact channelStep_iterate_registers _ _

/-- What any number of samples keeps (R11 to R13, R16, R21). -/
theorem sampled_iterate_registers (n : Nat) (k : ChipState) :
    (sampled^[n] k).accumulatorStep = k.accumulatorStep ∧
    ∀ c, ((sampled^[n] k).ch c).controlMode = (k.ch c).controlMode ∧
      ((sampled^[n] k).ch c).frequencyDivisor = (k.ch c).frequencyDivisor ∧
      ((sampled^[n] k).ch c).volume = (k.ch c).volume ∧
      ((sampled^[n] k).ch c).dividerMax = (k.ch c).dividerMax := by
  induction n with
  | zero => exact ⟨rfl, fun _ => ⟨rfl, rfl, rfl, rfl⟩⟩
  | succ n ih =>
    obtain ⟨ihstep, ihch⟩ := ih
    rw [Function.iterate_succ_apply']
    refine ⟨(sampled_accumulatorStep _).trans ihstep, fun c => ?_⟩
    obtain ⟨hmode, hfreq, hvolume, hmax⟩ := sampled_registers (sampled^[n] k) c
    obtain ⟨ihmode, ihfreq, ihvolume, ihmax⟩ := ihch c
    exact ⟨hmode.trans ihmode, hfreq.trans ihfreq, hvolume.trans ihvolume, hmax.trans ihmax⟩

/-- Settles O42: `GETSAMPLE` as one sample, `FILLBUFFER` as any number. -/
theorem samplingFrame : Obligations.SamplingFrame := by
  rintro i s t (rfl | ⟨n, rfl⟩) hexec
  · rw [exec_getSample] at hexec
    cases hexec
    exact ⟨rfl, sampled_accumulatorStep _, sampled_registers _⟩
  · rw [exec_fillBuffer] at hexec
    cases hexec
    exact ⟨rfl, sampled_iterate_registers n _⟩

/-! ## `FILLBUFFER` -/

/-- Settles O46: the closed forms of one sample and of `n` make those of `n + 1`. -/
theorem fillBufferIsRepeatedGetSample : Obligations.FillBufferIsRepeatedGetSample :=
  ⟨exec_fillBuffer 0, fun n s => ⟨_, _, _, _, exec_getSample s, rfl, exec_fillBuffer n _, rfl,
    by rw [List.length_map, List.length_iterate], exec_fillBuffer (n + 1) s⟩⟩

theorem step_of_pending {s : State} {f : Frame} {rest : List Frame} {i : Instr}
    (hpending : s.pending = f :: rest) (hdec : decode (.port f) = .ok i) :
    step s = exec i { s with pending := rest } := by
  simp only [step, nextFrame_cons hpending, hdec]

/-- A run of `n` steps over `n` `GETSAMPLE` frames is `n` samples. -/
theorem run_getSample_frames {n : Nat} {s : State} {rest : List Frame}
    (hpending : s.pending = List.replicate n getSampleFrame ++ rest) :
    ∃ t : State, core.run n s = .next t ∧ t.chip = sampled^[n] s.chip ∧ t.pending = rest := by
  induction n generalizing s with
  | zero => exact ⟨s, rfl, rfl, hpending⟩
  | succ n ih =>
    have hstep := step_of_pending hpending decode_getSampleFrame
    rw [exec_getSample] at hstep
    rw [run_next hstep]
    exact ih rfl

/-- Settles O47: both sides leave the block after `n` samples. -/
theorem fillBufferIsItsPortSequence : Obligations.FillBufferIsItsPortSequence := by
  intro n s rest hpending
  obtain ⟨t, hrun, hchip, hrest⟩ := run_getSample_frames hpending
  exact ⟨t, _, hrun, exec_fillBuffer n _, hchip, hrest⟩

/-! ## The long-run rate -/

theorem ticksOver_succ (n : Nat) (k : ChipState) :
    Stated.ticksOver (n + 1) k = tickCount k.accumulator + Stated.ticksOver n (sampled k) := by
  rw [Stated.ticksOver, getSample_eq, tickCount_eq]

/-- The ticks weigh the steps added but for the change of the accumulator. -/
theorem ticksOver_balance (n : Nat) (k : ChipState) :
    256 * (Stated.ticksOver n k : Int) =
      n * (k.accumulatorStep.toNat : Int) + k.accumulator - (sampled^[n] k).accumulator := by
  induction n generalizing k with
  | zero => simp [Stated.ticksOver]
  | succ n ih =>
    have htail := ih (sampled k)
    rw [sampled_accumulatorStep, sampled_accumulator] at htail
    rw [ticksOver_succ, Function.iterate_succ_apply]
    push_cast
    linarith

/-- I8 as a condition on the accumulator alone: what sampling keeps where the native rate is at
least the output rate (R145). -/
def Steady (k : ChipState) : Prop :=
  k.accumulator = 0 ∨ ((k.accumulatorStep.toNat : Int) - 256 ≤ k.accumulator ∧
    k.accumulator ≤ (k.accumulatorStep.toNat : Int) + 255)

theorem steady_sampled {k : ChipState} (hstep : 256 ≤ k.accumulatorStep.toNat) (h : Steady k) :
    Steady (sampled k) := by
  rw [Steady, sampled_accumulatorStep, sampled_accumulator, tickCount_eq]
  rw [Steady] at h
  omega

theorem steady_sampled_iterate {k : ChipState} (hstep : 256 ≤ k.accumulatorStep.toNat)
    (h : Steady k) (n : Nat) : Steady (sampled^[n] k) := by
  induction n with
  | zero => exact h
  | succ n ih =>
    rw [Function.iterate_succ_apply']
    exact steady_sampled ((sampled_iterate_registers n k).1 ▸ hstep) ih

/-- At a ratio of 2:1 the accumulator rises to 512 in two samples and stays there. -/
theorem sampled_iterate_accumulator_two_to_one {k : ChipState} (h0 : k.accumulator = 0)
    (hstep : k.accumulatorStep.toNat = 512) (n : Nat) :
    (sampled^[n + 2] k).accumulator = 512 := by
  induction n with
  | zero =>
    change (sampled (sampled k)).accumulator = 512
    rw [sampled_accumulator, sampled_accumulatorStep, sampled_accumulator, h0, hstep]
    decide
  | succ n ih =>
    rw [Nat.add_right_comm, Function.iterate_succ_apply', sampled_accumulator, ih,
      (sampled_iterate_registers _ k).1, hstep]
    decide

/-- Settles O48: the balance, the bound of the accumulator that I8 gives, and its limit 512. -/
theorem longRunRate : Obligations.LongRunRate := by
  intro n s u hexec
  rw [exec_fillBuffer] at hexec
  cases hexec
  have hbalance := ticksOver_balance n s.chip
  refine ⟨hbalance, fun h0 hstep => ?_, fun h0 hstep hn => ?_⟩
  · have hsteady := steady_sampled_iterate hstep (.inl h0) n
    rw [Steady, (sampled_iterate_registers n s.chip).1] at hsteady
    rw [hbalance, h0, abs_lt]
    omega
  · obtain ⟨j, rfl⟩ := Nat.exists_eq_add_of_le' hn
    rw [sampled_iterate_accumulator_two_to_one h0 hstep, h0, hstep] at hbalance
    omega

end Sys2Proof.Machine
end

section
/-! `NEW` (R160 to R163, R170, R175) and reset (R28, R190, R192). -/

namespace Sys2Proof.Machine

/-! ## The validity check -/

theorem rawStep_eq (n o : Int) : rawStep n o = n * 256 / o := rfl

/-- The check fails for the four causes of R170. -/
theorem validStep_eq_none {n o : Int} :
    validStep n o = none ↔ n ≤ 0 ∨ o ≤ 0 ∨ n * 256 / o < 1 ∨ 65535 < n * 256 / o := by
  rw [validStep, rawStep_eq]
  split_ifs with hrates hstep
  · exact iff_of_true rfl (or_assoc.mp (.inl hrates))
  · exact iff_of_true rfl (.inr (.inr hstep))
  · exact iff_of_false (by simp) fun h => (or_assoc.mpr h).elim hrates hstep

/-- What it gives otherwise is the quotient, which sixteen bits hold (R162). -/
theorem validStep_eq_some {n o : Int} {w : StepWord} (h : validStep n o = some w) :
    1 ≤ n ∧ 1 ≤ o ∧ 1 ≤ (w.toNat : Int) ∧ (w.toNat : Int) = n * 256 / o := by
  rw [validStep, rawStep_eq] at h
  split_ifs at h with hrates hstep
  cases h
  have hvalue : ((BitVec.ofInt 16 (n * 256 / o)).toNat : Int) = n * 256 / o := by
    rw [BitVec.toNat_ofInt]
    omega
  omega

theorem exec_new_valid {n o : Int} {w : StepWord} (h : validStep n o = some w) (s : State) :
    exec (.new n o) s = .next { s with chip := ChipState.created w, result := .constructed } :=
  execNew_valid h s

theorem exec_new_invalid {n o : Int} (h : validStep n o = none) (s : State) :
    exec (.new n o) s = .next s.raiseInvalidConfiguration :=
  execNew_invalid h s

/-- Settles O49: none of the four causes holds, so the check gives a step. -/
theorem newCreatesAZeroState : Obligations.NewCreatesAZeroState := by
  intro n o s hn ho hlow hhigh
  cases hvalid : validStep n o with
  | none =>
    have hcause := validStep_eq_none.mp hvalid
    omega
  | some w =>
    obtain ⟨-, -, -, hw⟩ := validStep_eq_some hvalid
    exact ⟨w, hw, exec_new_valid hvalid s⟩

/-- Settles O50: each cause fails the check. -/
theorem newRejectsInvalidRates : Obligations.NewRejectsInvalidRates :=
  fun _ _ s hcause => exec_new_invalid (validStep_eq_none.mpr hcause) s

/-- The step is in range exactly where the ratio of the rates is (R161). -/
theorem step_in_range_iff {n o : Int} (ho : 1 ≤ o) :
    (1 ≤ n * 256 / o ∧ n * 256 / o ≤ 65535) ↔ (o ≤ 256 * n ∧ n < 256 * o) := by
  have hpos : 0 < o := by omega
  have hupper : n * 256 / o ≤ 65535 ↔ n * 256 < 65536 * o := by
    rw [← Int.lt_add_one_iff, Int.ediv_lt_iff_lt_mul hpos]
    rfl
  rw [Int.le_ediv_iff_mul_le hpos, hupper]
  omega

/-- Settles O51: the check by its failures, the step as a quotient with its remainder. -/
theorem validRates : Obligations.ValidRates := by
  refine fun n o => ⟨?_, fun w hw => ?_⟩
  · rw [← not_iff_not, Bool.not_eq_true, Option.isSome_eq_false_iff, Option.isNone_iff_eq_none,
      validStep_eq_none]
    obtain ho | ho := Int.lt_or_le o 1
    · omega
    · have hrange := step_in_range_iff (n := n) ho
      omega
  · obtain ⟨-, ho, hpos, hw⟩ := validStep_eq_some hw
    have hlow := Int.ediv_mul_le (n * 256) (show o ≠ 0 by omega)
    have hhigh := Int.lt_ediv_add_one_mul_self (n * 256) (show 0 < o by omega)
    rw [hw]
    exact ⟨hlow, hhigh, by omega⟩

/-! ## Reset -/

/-- Settles O52: the two reset rates give the reset step. -/
theorem resetIsAZeroState : Obligations.ResetIsAZeroState :=
  ⟨rfl, rfl, rfl, fun s => ⟨_, exec_new_valid (w := Config.resetStep) (by decide) s, rfl⟩⟩

/-- A block whose channels are zero stays so: neither channel is clocked. -/
theorem sampled_of_zero_channels {k : ChipState} (h : ∀ c, k.ch c = ChannelState.zero) :
    sampled k = { k with accumulator := (sampled k).accumulator } := by
  refine ChipState.ext_ch (fun c => ?_) rfl (sampled_accumulatorStep k)
  rw [sampled_ch, channelStep_iterate_stopped (by rw [h c]; rfl)]
  exact (ch_with_accumulator k _ c).symm

/-- Settles O53: a stopped, silent block is left alone, and the mix of two zero levels is 0. -/
theorem silentAfterReset : Obligations.SilentAfterReset := by
  intro s h0 h1
  have hzero : ∀ c, s.chip.ch c = ChannelState.zero := by
    intro c
    cases c with
    | ch0 => exact h0
    | ch1 => exact h1
  refine ⟨(sampled s.chip).accumulator, ?_⟩
  have hmix : sampleOf s.chip = 0 := by
    rw [sampleOf_eq_mix_sampled, sampled_of_zero_channels hzero, mix_with_accumulator, mix, h0, h1]
    rfl
  rw [exec_getSample, hmix, ← sampled_of_zero_channels hzero]

end Sys2Proof.Machine
end

section
/-! The invariant (R27, R91, R145) under each operation, and under a step. -/

namespace Sys2Proof.Machine

/-! ## What a transaction can do -/

/-- Everything the instruction of a decoded frame can do. -/
theorem exec_decoded_cases {f : Frame} {i : Instr} {s t : State}
    (hdec : decode (.port f) = .ok i) (hexec : exec i s = .next t) :
    (i = .idle ∧ t = s) ∨
    (f.cmd = cmdWr ∧ t = writeRegister f.addr f.data s) ∨
    (i = .getSample ∧
      t = { s with chip := sampled s.chip, result := .sample (sampleOf s.chip) }) ∨
    (∃ n o w, i = .new n o ∧ validStep n o = some w ∧
      t = { s with chip := ChipState.created w, result := .constructed }) ∨
    (∃ n o, i = .new n o ∧ t = s.raiseInvalidConfiguration) := by
  change decodeFrame f = .ok i at hdec
  obtain ⟨-, h⟩ | ⟨hcmd, h⟩ | ⟨-, h⟩ | ⟨-, h⟩ | ⟨-, -, -, -, h⟩ := decodeFrame_cases f <;>
    rw [h] at hdec <;> cases hdec
  · cases hexec
    exact .inl ⟨rfl, rfl⟩
  · rw [exec_decodeWr] at hexec
    cases hexec
    exact .inr (.inl ⟨hcmd, rfl⟩)
  · rw [exec_getSample] at hexec
    cases hexec
    exact .inr (.inr (.inl ⟨rfl, rfl⟩))
  · cases hvalid : validStep f.nativeClockHz f.outputSampleRateHz with
    | some w =>
      rw [exec_new_valid hvalid] at hexec
      cases hexec
      exact .inr (.inr (.inr (.inl ⟨_, _, w, rfl, hvalid, rfl⟩)))
    | none =>
      rw [exec_new_invalid hvalid] at hexec
      cases hexec
      exact .inr (.inr (.inr (.inr ⟨_, _, rfl, rfl⟩)))

/-! ## A channel under a write -/

/-- At most `3 * 32`. -/
theorem effDiv_toNat_le (m : Mode) (f : Freq) : (effDiv m f).toNat ≤ 96 := by
  have hf := f.isLt
  rw [effectiveDivisorValue m f]
  split_ifs <;> omega

/-- What `Recompute` needs of a channel whose register has just been stored. -/
structure Recomputable (x : ChannelState) : Prop where
  volume : Level.onScale x.volume
  level : Level.onScale x.outputLevel
  stopped : x.dividerCounter = 0 ↔ x.dividerMax = 0
  counterBound : x.dividerCounter.toNat ≤ 96

theorem volumeField_onScale (d : Byte) : Level.onScale (volumeField d) := by
  rw [Level.onScale, volumeField_toNat]
  omega

theorem recomputable_storeField {x : ChannelState} (h : ChannelInv x) (k : RegKind) (d : Byte) :
    Recomputable (storeField k d x) := by
  cases k with
  | control => exact ⟨h.volume, h.level, h.stopped, h.counterBound⟩
  | frequency => exact ⟨h.volume, h.level, h.stopped, h.counterBound⟩
  | volume => exact ⟨volumeField_onScale d, h.level, h.stopped, h.counterBound⟩

/-- `Recompute` leaves the counter it found or the new divisor. -/
theorem recompute_dividerCounter_cases (x : ChannelState) :
    (recompute x).dividerCounter = effDiv x.controlMode x.frequencyDivisor ∨
    (recompute x).dividerCounter = x.dividerCounter := by
  rw [recompute_eq]
  dsimp only
  split_ifs
  · exact .inl rfl
  · exact .inr rfl

/-- After `Recompute` the counter and the divisor are 0 together: mode 0 clears the counter, and any
other mode loads one that stands at 0. -/
theorem recompute_stopped {x : ChannelState} (h : x.dividerCounter = 0 ↔ x.dividerMax = 0) :
    (recompute x).dividerCounter = 0 ↔ effDiv x.controlMode x.frequencyDivisor = 0 := by
  by_cases hcounter : x.dividerCounter = 0
  · rw [recompute_dividerCounter_stopped hcounter (h.mp hcounter)]
  · by_cases hm : x.controlMode = 0
    · exact iff_of_true (recompute_dividerCounter_mode_zero hm (mt h.mpr hcounter))
        (effDiv_eq_zero.mpr hm)
    · rw [recompute_dividerCounter_running hm hcounter]
      exact iff_of_false hcounter (effDiv_ne_zero hm _)

theorem channelInv_recompute {x : ChannelState} (h : Recomputable x) :
    ChannelInv (recompute x) where
  divisor := by simp
  volume := by rw [recompute_volume]; exact h.volume
  level := by
    rw [recompute_outputLevel]
    split_ifs
    · exact h.volume
    · exact h.level
  stopped := by rw [recompute_dividerMax]; exact recompute_stopped h.stopped
  modeZero := by rw [recompute_dividerMax, recompute_controlMode]; exact effDiv_eq_zero
  counterBound := by
    obtain hcounter | hcounter := recompute_dividerCounter_cases x <;> rw [hcounter]
    · exact effDiv_toNat_le _ _
    · exact h.counterBound
  maxBound := by rw [recompute_dividerMax]; exact effDiv_toNat_le _ _
  forced := by
    rw [recompute_controlMode, recompute_outputLevel, recompute_volume]
    exact fun hm => if_pos hm

theorem channelInv_writeField {x : ChannelState} (h : ChannelInv x) (k : RegKind) (d : Byte) :
    ChannelInv (writeField k d x) := channelInv_recompute (recomputable_storeField h k d)

/-! ## A channel under a tick -/

theorem zero_onScale : Level.onScale 0 := by decide

/-- A tick of a channel that is clocked leaves its counter not 0, and within the bound. -/
theorem channelStep_dividerCounter_running {x : ChannelState} (h : ChannelInv x)
    (hrun : x.dividerCounter ≠ 0) :
    (channelStep x).dividerCounter ≠ 0 ∧ (channelStep x).dividerCounter.toNat ≤ 96 := by
  rcases divider_cases x.dividerCounter with hcount | hone | hstop
  · rw [channelStep, divide_running hcount]
    have hbound := h.counterBound
    dsimp only
    constructor <;> bv_omega
  · rw [channelStep, divide_underflow hone, underflow_dividerCounter]
    exact ⟨h.dividerMax_ne_zero hrun, h.maxBound⟩
  · exact absurd hstop hrun

theorem channelInv_channelStep {x : ChannelState} (h : ChannelInv x) :
    ChannelInv (channelStep x) := by
  by_cases hcounter : x.dividerCounter = 0
  · rw [channelStep, divide_stopped hcounter]
    exact h
  · obtain ⟨hne, hbound⟩ := channelStep_dividerCounter_running h hcounter
    have hmax := h.dividerMax_ne_zero hcounter
    have hmode : x.controlMode ≠ 0 := mt h.modeZero.mpr hmax
    have hsame := channelStep_spec x
    refine ⟨?_, hsame.volume ▸ h.volume, ?_, ?_, ?_, hbound, hsame.dividerMax ▸ h.maxBound, ?_⟩
    · rw [hsame.dividerMax, hsame.controlMode, hsame.frequencyDivisor]
      exact h.divisor
    · obtain hlevel | hlevel | hlevel := hsame.level <;> rw [hlevel]
      exacts [h.level, zero_onScale, h.volume]
    · exact iff_of_false hne (hsame.dividerMax ▸ hmax)
    · exact iff_of_false (hsame.dividerMax ▸ hmax) (hsame.controlMode ▸ hmode)
    · exact fun hm => absurd (hsame.controlMode ▸ hm) hmode

theorem channelInv_zero : ChannelInv ChannelState.zero := by constructor <;> decide

theorem channelInv_sampled {k : ChipState} {c : ChannelId} (h : ChannelInv (k.ch c)) :
    ChannelInv ((sampled k).ch c) := by
  rw [sampled_ch]
  exact Function.Iterate.rec ChannelInv h (fun _ => channelInv_channelStep) _

/-! ## The resampler -/

/-- I8 and R145 (b) under a sample: with the output rate above the native rate the accumulator falls
by one more `256 - accumulatorStep`. -/
theorem resamplerInv_sampled {k : ChipState} (h : ResamplerInv k) : ResamplerInv (sampled k) where
  stepPositive := by rw [sampled_accumulatorStep]; exact h.stepPositive
  steady := by
    rw [sampled_accumulatorStep]
    exact fun hstep => sampled_accumulatorStep k ▸ steady_sampled hstep (h.steady hstep)
  falling := by
    rw [sampled_accumulatorStep]
    intro hstep
    obtain ⟨hneg, hdvd⟩ := h.falling hstep
    have hfall : (sampled k).accumulator =
        k.accumulator - (256 - (k.accumulatorStep.toNat : Int)) := by
      rw [sampled_accumulator, tickCount_of_lt (by omega)]
      push_cast
      ring
    rw [hfall]
    exact ⟨by omega, dvd_sub_self_right.mpr hdvd⟩

theorem resamplerInv_created {w : StepWord} (h : 1 ≤ w.toNat) :
    ResamplerInv (ChipState.created w) where
  stepPositive := h
  steady _ := .inl rfl
  falling _ := ⟨le_rfl, dvd_zero _⟩

/-- The resampler's invariant is of the accumulator and the step alone. -/
theorem ResamplerInv.congr {k l : ChipState} (h : ResamplerInv k)
    (hacc : l.accumulator = k.accumulator) (hstep : l.accumulatorStep = k.accumulatorStep) :
    ResamplerInv l := by
  constructor <;> rw [hstep]
  · exact h.stepPositive
  · rw [hacc]; exact h.steady
  · rw [hacc]; exact h.falling

/-! ## The machine -/

theorem inv_created {w : StepWord} (h : 1 ≤ w.toNat) (fs : List Frame) (r : Result) :
    State.Inv ⟨ChipState.created w, fs, r⟩ :=
  ⟨fun c => by rw [ChipState.created_ch]; exact channelInv_zero, resamplerInv_created h⟩

theorem inv_writeRegister {s : State} (h : s.Inv) (a : Addr) (d : Byte) :
    (writeRegister a d s).Inv where
  channel c := by
    obtain ⟨k, -, hch⟩ | ⟨-, hch⟩ := writeRegister_ch_cases a d s c <;> rw [hch]
    · exact channelInv_writeField (h.channel c) k d
    · exact h.channel c
  resampler := h.resampler.congr (writeRegister_accumulator a d s)
    (writeRegister_accumulatorStep a d s)

/-- The invariant is of the block alone, not of what the host has still to issue. -/
theorem inv_with_pending {s : State} (h : s.Inv) (fs : List Frame) :
    State.Inv { s with pending := fs } := ⟨h.channel, h.resampler⟩

/-- Every transaction keeps the invariant. -/
theorem inv_exec_decoded {f : Frame} {i : Instr} {s t : State} (h : s.Inv)
    (hdec : decode (.port f) = .ok i) (hexec : exec i s = .next t) : t.Inv := by
  obtain ⟨-, rfl⟩ | ⟨-, rfl⟩ | ⟨-, rfl⟩ | ⟨n, o, w, -, hvalid, rfl⟩ | ⟨n, o, -, rfl⟩ :=
    exec_decoded_cases hdec hexec
  · exact h
  · exact inv_writeRegister h f.addr f.data
  · exact ⟨fun c => channelInv_sampled (h.channel c), resamplerInv_sampled h.resampler⟩
  · obtain ⟨-, -, hpos, -⟩ := validStep_eq_some hvalid
    exact inv_created (by omega) _ _
  · exact ⟨h.channel, h.resampler⟩

/-- Settles O55: a step is idle, one transaction, or refused. -/
theorem stepKeepsTheInvariant : Obligations.StepKeepsTheInvariant := by
  intro s t hinv hstep
  obtain ⟨-, hidle⟩ | ⟨f, rest, i, -, hdec, hexec⟩ | ⟨f, rest, -, -, hrefused⟩ := step_cases s
  · rw [hidle] at hstep
    cases hstep
    exact hinv
  · exact inv_exec_decoded (inv_with_pending hinv rest) hdec (hexec.symm.trans hstep)
  · rw [hrefused] at hstep
    cases hstep

/-- Settles O54: reset is a created block with a positive step. -/
theorem resetMeetsTheInvariant : Obligations.ResetMeetsTheInvariant :=
  inv_created (w := Config.resetStep) (by decide) [] .nothing

/-- Settles O56, by induction on how the state was reached. -/
theorem reachableStatesMeetTheInvariant : Obligations.ReachableStatesMeetTheInvariant :=
  fun _ => reachable_induct resetMeetsTheInvariant
    (fun s f h => inv_with_pending h (s.pending ++ [f]))
    stepKeepsTheInvariant

/-! ## Consequences for a sample -/

/-- Settles O41: I8 bounds the accumulator by `65535 + 255`, below 257 tick weights. -/
theorem tickCountBounds : Obligations.TickCountBounds := by
  intro s hinv
  have hstep := s.chip.accumulatorStep.isLt
  have hsteady := hinv.resampler.steady
  have hfalling := hinv.resampler.falling
  refine ⟨tickCount_pos _, ?_, fun hlow => tickCount_of_lt ?_, tickCount_eq _⟩
  · rw [tickCount_eq]
    omega
  · omega

/-- Settles O44: mode 0 has stopped the divider, and its level is the volume. -/
theorem modeZeroHoldsTheVolume : Obligations.ModeZeroHoldsTheVolume := by
  intro s c hinv hm
  have hchannel := hinv.channel c
  have hstop : (s.chip.ch c).dividerCounter = 0 :=
    hchannel.stopped.mpr (hchannel.modeZero.mpr hm)
  have hkept : (sampled s.chip).ch c = s.chip.ch c := by
    rw [sampled_ch, channelStep_iterate_stopped hstop]
  refine ⟨_, exec_getSample s, hkept, ?_, by rw [sampleOf_eq_mix_sampled]⟩
  rw [hkept, hchannel.forced hm]

end Sys2Proof.Machine
end

section
/-! Statements over all instructions and all transactions: completion, the one error, who writes
what, when time passes, and silence. -/

namespace Sys2Proof.Machine

/-! ## The seven shapes of an instruction -/

/-- The instructions by what runs them: a write to a register, whichever, is one shape, and a mode,
whichever, another. -/
inductive InstrShape : Instr → Prop where
  | idle : InstrShape .idle
  | new (n o : Int) : InstrShape (.new n o)
  | getSample : InstrShape .getSample
  | fillBuffer (n : Nat) : InstrShape (.fillBuffer n)
  | write (c : ChannelId) (k : RegKind) (d : Byte) : InstrShape (decodeWr (regAddr c k) d)
  | wrIgnored (a : Addr) (d : Byte) : InstrShape (.wrIgnored a d)
  | mode (c : ChannelId) (m : Mode) : InstrShape (decodeMode c m)

theorem instrShape (i : Instr) : InstrShape i := by
  cases i with
  | idle => exact .idle
  | new n o => exact .new n o
  | getSample => exact .getSample
  | fillBuffer n => exact .fillBuffer n
  | wrAudc0 d => exact .write .ch0 .control d
  | wrAudc1 d => exact .write .ch1 .control d
  | wrAudf0 d => exact .write .ch0 .frequency d
  | wrAudf1 d => exact .write .ch1 .frequency d
  | wrAudv0 d => exact .write .ch0 .volume d
  | wrAudv1 d => exact .write .ch1 .volume d
  | wrIgnored a d => exact .wrIgnored a d
  | mode0 c => exact .mode c 0
  | mode1 c => exact .mode c 1
  | mode2 c => exact .mode c 2
  | mode3 c => exact .mode c 3
  | mode4 c => exact .mode c 4
  | mode5 c => exact .mode c 5
  | mode6 c => exact .mode c 6
  | mode7 c => exact .mode c 7
  | mode8 c => exact .mode c 8
  | mode9 c => exact .mode c 9
  | mode10 c => exact .mode c 10
  | mode11 c => exact .mode c 11
  | mode12 c => exact .mode c 12
  | mode13 c => exact .mode c 13
  | mode14 c => exact .mode c 14
  | mode15 c => exact .mode c 15

theorem exec_idle (s : State) : exec .idle s = .next s := rfl

/-! ## Completion -/

/-- Settles O9, by the exact next state of each shape. -/
theorem everyInstructionCompletes : Obligations.EveryInstructionCompletes := by
  intro i s
  cases instrShape i with
  | idle => exact ⟨_, exec_idle s⟩
  | new n o =>
    cases hvalid : validStep n o with
    | some w => exact ⟨_, exec_new_valid hvalid s⟩
    | none => exact ⟨_, exec_new_invalid hvalid s⟩
  | getSample => exact ⟨_, exec_getSample s⟩
  | fillBuffer n => exact ⟨_, exec_fillBuffer n s⟩
  | write c k d => exact ⟨_, exec_decodeWr _ d s⟩
  | wrIgnored a d => exact ⟨_, exec_wrIgnored a d s⟩
  | mode c m => exact ⟨_, exec_decodeMode c m s⟩

/-- Settles O7: the meaning of `IDLE` is the state it finds. -/
theorem idleChangesNothing : Obligations.IdleChangesNothing := exec_idle

/-- Settles O6: the decoded frame runs on the state without it, and an idle port keeps the state. -/
theorem stepRunsDecodedTransaction : Obligations.StepRunsDecodedTransaction := by
  refine ⟨fun s f rest i => step_of_pending, fun s hidle => ?_⟩
  rw [step, nextFrame_nil hidle]
  exact exec_idle s

/-- Settles O8: what decodes completes, and what does not decode is refused by name. -/
theorem stepStopsOnOverlappingCommandOnly : Obligations.StepStopsOnOverlappingCommandOnly := by
  intro s
  obtain ⟨-, hidle⟩ | ⟨f, rest, i, -, -, hexec⟩ | ⟨f, rest, hpending, hdec, hrefused⟩ :=
    step_cases s
  · exact .inl ⟨s, hidle⟩
  · rw [hexec]
    exact .inl (everyInstructionCompletes i _)
  · change decodeFrame f = _ at hdec
    refine .inr ⟨f, rest, hpending, ?_⟩
    obtain ⟨-, h⟩ | ⟨-, h⟩ | ⟨-, h⟩ | ⟨-, h⟩ | ⟨h0, h1, h2, h4, -⟩ := decodeFrame_cases f
    · cases h.symm.trans hdec
    · cases h.symm.trans hdec
    · cases h.symm.trans hdec
    · cases h.symm.trans hdec
    · exact ⟨h0, h1, h2, h4, hrefused⟩

/-! ## The one error -/

/-- With positive rates the step is not negative, so a step below 1 is 0. -/
theorem invalid_rates_cause {n o : Int} (h : validStep n o = none) :
    n ≤ 0 ∨ o ≤ 0 ∨ n * 256 / o = 0 ∨ 65535 < n * 256 / o := by
  have hcause := validStep_eq_none.mp h
  by_cases hrates : n ≤ 0 ∨ o ≤ 0
  · exact or_assoc.mp (.inl hrates)
  · have hnonneg : 0 ≤ n * 256 / o := Int.ediv_nonneg (by omega) (by omega)
    omega

/-- Settles O10: every other shape hands back another result or keeps the one that stood. -/
theorem onlyNewRaisesInvalidConfiguration : Obligations.OnlyNewRaisesInvalidConfiguration := by
  intro i s t hexec hbefore hafter
  cases instrShape i with
  | idle =>
    cases hexec
    exact absurd hafter hbefore
  | new n o =>
    cases hvalid : validStep n o with
    | some w =>
      rw [exec_new_valid hvalid] at hexec
      cases hexec
      cases hafter
    | none => exact ⟨n, o, rfl, invalid_rates_cause hvalid⟩
  | getSample =>
    rw [exec_getSample] at hexec
    cases hexec
    cases hafter
  | fillBuffer n =>
    rw [exec_fillBuffer] at hexec
    cases hexec
    cases hafter
  | write c k d =>
    rw [exec_decodeWr] at hexec
    cases hexec
    rw [writeRegister_result] at hafter
    cases hafter
  | wrIgnored a d =>
    cases hexec
    cases hafter
  | mode c m =>
    rw [exec_decodeMode] at hexec
    cases hexec
    exact absurd hafter hbefore

/-! ## Who writes which register -/

/-- The registers and the step stand as they stood. -/
structure RegistersKept (k l : ChipState) : Prop where
  controlMode : ∀ c, (l.ch c).controlMode = (k.ch c).controlMode
  frequencyDivisor : ∀ c, (l.ch c).frequencyDivisor = (k.ch c).frequencyDivisor
  volume : ∀ c, (l.ch c).volume = (k.ch c).volume
  accumulatorStep : l.accumulatorStep = k.accumulatorStep

theorem registersKept_refl (k : ChipState) : RegistersKept k k :=
  ⟨fun _ => rfl, fun _ => rfl, fun _ => rfl, rfl⟩

theorem registersKept_sampled_iterate (n : Nat) (k : ChipState) :
    RegistersKept k (sampled^[n] k) := by
  obtain ⟨hstep, hch⟩ := sampled_iterate_registers n k
  choose hmode hfreq hvolume hmax using hch
  exact ⟨hmode, hfreq, hvolume, hstep⟩

theorem registersKept_mapCh {k : ChipState} {c : ChannelId} {f : ChannelState → ChannelState}
    (h : SameRegisters (k.ch c) (f (k.ch c))) : RegistersKept k (k.mapCh c f) := by
  have hch : ∀ c', SameRegisters (k.ch c') ((k.mapCh c f).ch c') := by
    intro c'
    by_cases hc : c' = c
    · rw [hc, ChipState.ch_mapCh_same]
      exact h
    · rw [ChipState.ch_mapCh_other _ _ hc]
      exact ⟨rfl, rfl, rfl, rfl, .inl rfl⟩
  exact ⟨fun c' => (hch c').controlMode, fun c' => (hch c').frequencyDivisor,
    fun c' => (hch c').volume, ChipState.mapCh_accumulatorStep k c f⟩

/-- Only `NEW` and the writes touch a register or the step. -/
theorem registersKept_or_new_or_write {i : Instr} {s t : State} (hexec : exec i s = .next t) :
    RegistersKept s.chip t.chip ∨ (∃ n o, i = .new n o) ∨
      ∃ c k d, i = decodeWr (regAddr c k) d ∧ t = writeRegister (regAddr c k) d s := by
  cases instrShape i with
  | idle =>
    cases hexec
    exact .inl (registersKept_refl _)
  | new n o => exact .inr (.inl ⟨n, o, rfl⟩)
  | getSample =>
    rw [exec_getSample] at hexec
    cases hexec
    exact .inl (registersKept_sampled_iterate 1 s.chip)
  | fillBuffer n =>
    rw [exec_fillBuffer] at hexec
    cases hexec
    exact .inl (registersKept_sampled_iterate n s.chip)
  | write c k d =>
    rw [exec_decodeWr] at hexec
    cases hexec
    exact .inr (.inr ⟨c, k, d, rfl, rfl⟩)
  | wrIgnored a d =>
    cases hexec
    exact .inl (registersKept_refl _)
  | mode c m =>
    obtain ⟨gate, act, hmode, hact, -, -⟩ := exec_mode c m
    rw [hmode] at hexec
    cases hexec
    exact .inl (registersKept_mapCh (divide_eventOf_spec hact _))

/-- A field that the writes of other kinds keep changes by a write of its own kind on its own
channel only. -/
theorem writeRegister_keeps_or_own {α : Type} (field : ChannelState → α) {own : RegKind}
    (hkeeps : ∀ k, k ≠ own → ∀ d x, field (writeField k d x) = field x)
    (a : Addr) (d : Byte) (s : State) (c : ChannelId) :
    field ((writeRegister a d s).chip.ch c) = field (s.chip.ch c) ∨ a = regAddr c own := by
  obtain ⟨k, haddr, hch⟩ | ⟨-, hch⟩ := writeRegister_ch_cases a d s c <;> rw [hch]
  · by_cases hk : k = own
    · exact .inr (hk ▸ haddr)
    · exact .inl (hkeeps k hk d _)
  · exact .inl rfl

/-- Settles O57: a write is the write of one register; nothing else but `NEW` reaches a register. -/
theorem registersChangeByTheirOwnWritesOnly : Obligations.RegistersChangeByTheirOwnWritesOnly := by
  intro i s t hexec
  obtain hkept | hnew | ⟨c', k, d, rfl, rfl⟩ := registersKept_or_new_or_write hexec
  · exact ⟨fun c => .inl (hkept.controlMode c), fun c => .inl (hkept.frequencyDivisor c),
      fun c => .inl (hkept.volume c), .inl hkept.accumulatorStep⟩
  · exact ⟨fun _ => .inr (.inl hnew), fun _ => .inr (.inl hnew), fun _ => .inr (.inl hnew),
      .inr hnew⟩
  · refine ⟨fun c => ?_, fun c => ?_, fun c => ?_, .inl (writeRegister_accumulatorStep _ d s)⟩
    · refine (writeRegister_keeps_or_own ChannelState.controlMode
        (fun _ => writeField_controlMode) _ d s c).imp_right fun haddr => .inr ⟨d, ?_⟩
      rw [decode_wrFrame, haddr]
    · refine (writeRegister_keeps_or_own ChannelState.frequencyDivisor
        (fun _ => writeField_frequencyDivisor) _ d s c).imp_right fun haddr => .inr ⟨d, ?_⟩
      rw [decode_wrFrame, haddr]
    · refine (writeRegister_keeps_or_own ChannelState.volume
        (fun _ => writeField_volume) _ d s c).imp_right fun haddr => .inr ⟨d, ?_⟩
      rw [decode_wrFrame, haddr]

/-! ## When time passes -/

/-- Settles O58: of the transactions that are neither, idle changes nothing and a write moves no
position. -/
theorem timePassesOnlyInGetSample : Obligations.TimePassesOnlyInGetSample := by
  intro f i s t hdec hexec
  obtain ⟨-, rfl⟩ | ⟨-, rfl⟩ | ⟨rfl, -⟩ | ⟨n, o, w, rfl, -, -⟩ | ⟨n, o, rfl, -⟩ :=
    exec_decoded_cases hdec hexec
  · exact .inr (.inr ⟨rfl, fun _ => ⟨rfl, rfl, rfl⟩⟩)
  · refine .inr (.inr ⟨writeRegister_accumulator _ _ s, fun c => ?_⟩)
    obtain ⟨k, -, hch⟩ | ⟨-, hch⟩ := writeRegister_ch_cases f.addr f.data s c <;> simp [hch]
  · exact .inl rfl
  · exact .inr (.inl ⟨n, o, rfl⟩)
  · exact .inr (.inl ⟨n, o, rfl⟩)

/-! ## Silence -/

/-- A channel that contributes nothing and has no volume to turn on to. -/
def Silent (x : ChannelState) : Prop := x.volume = 0 ∧ x.outputLevel = 0

theorem silent_channelStep {x : ChannelState} (h : Silent x) : Silent (channelStep x) := by
  obtain ⟨hvolume, hlevel⟩ := h
  have hsame := channelStep_spec x
  refine ⟨hsame.volume.trans hvolume, ?_⟩
  obtain h | h | h := hsame.level
  · exact h.trans hlevel
  · exact h
  · exact h.trans hvolume

theorem silent_sampled {k : ChipState} {c : ChannelId} (h : Silent (k.ch c)) :
    Silent ((sampled k).ch c) := by
  rw [sampled_ch]
  exact Function.Iterate.rec Silent h (fun _ => silent_channelStep) _

theorem silent_recompute {x : ChannelState} (h : Silent x) : Silent (recompute x) := by
  obtain ⟨hvolume, hlevel⟩ := h
  refine ⟨(recompute_volume x).trans hvolume, ?_⟩
  rw [recompute_outputLevel, hvolume, hlevel, ite_self]

/-- Only a non-zero volume field ends the silence of a channel that is written. -/
theorem silent_writeField {x : ChannelState} (h : Silent x) {k : RegKind} {d : Byte}
    (hfield : k = .volume → d.toNat % 16 = 0) : Silent (writeField k d x) := by
  refine silent_recompute ?_
  cases k with
  | control => exact h
  | frequency => exact h
  | volume =>
    have hzero : volumeField d = 0 := BitVec.eq_of_toNat_eq (by simp [hfield rfl])
    exact ⟨hzero, h.2⟩

/-- Settles O38, transaction by transaction. -/
theorem silentChannelStaysSilent : Obligations.SilentChannelStaysSilent := by
  intro s t c hstep hvolume hlevel hwrite
  have hsilent : Silent (s.chip.ch c) := ⟨hvolume, hlevel⟩
  obtain ⟨-, hidle⟩ | ⟨f, rest, i, hpending, hdec, hexec⟩ | ⟨f, rest, -, -, hrefused⟩ :=
    step_cases s
  · rw [hidle] at hstep
    cases hstep
    exact hsilent
  · obtain ⟨-, rfl⟩ | ⟨hcmd, rfl⟩ | ⟨-, rfl⟩ | ⟨n, o, w, -, -, rfl⟩ | ⟨n, o, -, rfl⟩ :=
      exec_decoded_cases hdec (hexec.symm.trans hstep)
    · exact hsilent
    · obtain ⟨k, haddr, hch⟩ | ⟨-, hch⟩ :=
        writeRegister_ch_cases f.addr f.data { s with pending := rest } c <;> rw [hch]
      · exact silent_writeField hsilent fun hk => hwrite f rest hpending hcmd (hk ▸ haddr)
      · exact hsilent
    · exact silent_sampled hsilent
    · rw [ChipState.created_ch]
      exact ⟨rfl, rfl⟩
    · exact hsilent
  · rw [hrefused] at hstep
    cases hstep

end Sys2Proof.Machine
end
